-- ==== Sys2Proof/Word.lean ====
section
/-! DEFINITION. The byte and the two colour tuples of the block (00_scope R14, R15). -/

namespace Sys2Proof

/-- A byte, an unsigned integer 0 to 255, bit 7 the most significant (R14). -/
abbrev Byte := BitVec 8

/-- A palette triple (R, G, B) (10_state R51). -/
structure Rgb where
  r : Byte
  g : Byte
  b : Byte
  deriving DecidableEq, Repr

/-- A pixel or a scratch palette entry (R, G, B, A) (00_scope R15, 10_state R53). -/
structure Rgba where
  r : Byte
  g : Byte
  b : Byte
  a : Byte
  deriving DecidableEq, Repr

end Sys2Proof
end

