-- ==== Sys2Proof/Config.lean ====
section
/-! DEFINITION. What an implementation fixes, and the free values: constants with no body, of which nothing can be proved. -/

namespace Sys2Proof

/-- The value read from element `index` of a space, table or row buffer whose contents carry the tag `tag`
when nothing has written that element (10_state R57, 70_reset_and_hazards R281, 60_exceptions R252: "any value").
A free value: DESIGN CHOICE only in that the same unwritten element reads the same twice (20_memory R69); log 2. -/
opaque Config.freeByte (tag index : Nat) : Byte

/-- A register's free value (FSTREAM_LEN, PAL_LEN, APAL_LEN, TRNS_KIND, BIT_DEPTH_EFF after a faulted encode run,
60_exceptions R252). Log 2. -/
opaque Config.freeNat (tag : Nat) : Nat

/-- EPAL_CAP, the OPEN capacity of the scratch palette; the spec's default is unbounded (43_pack R197, D35).
DESIGN CHOICE: the default; log 7. -/
def Config.epalCap : Option Nat := none

end Sys2Proof
end

