-- ==== Sys2Proof/Machine/State.lean ====
section
/-! DEFINITION. The state of the block (10_state R20), as plain data, and its value after reset (R57). -/

namespace Sys2Proof.Machine

/-- A sparse array indexed from 0 by an unbounded natural: the elements that have been written, by index, indices strictly
rising; an index not listed is UNWRITTEN and holds no value (70_reset_and_hazards R281). What a read of it gives is the free
value of the contents' tag (Ops.lean). -/
structure Store (α : Type) where
  tag   : Nat
  cells : List (Nat × α)
  deriving DecidableEq, Repr

/-- One of the two byte spaces (20_memory R60); its cells are `Host.Cell`s. -/
abbrev Memory := Store Byte

/-- A row buffer (10_state R21, R22): the bytes written, element 0 first; elements beyond them are unwritten. -/
structure RowBuf where
  tag   : Nat
  bytes : List Byte
  deriving DecidableEq, Repr

/-- STATE (10_state R42). -/
inductive RunState where
  | idle
  | running
  | done
  | faulted
  deriving DecidableEq, Repr

/-- The fault kinds of 60_exceptions R241; `none` is code 0. The kinds only a collaborator raises keep their places. -/
inductive ErrKind where
  | none
  | badSignature
  | truncated
  | chunkLengthMismatch
  | badHeader
  | badPalette
  | missingPalette
  | missingData
  | badTransparency
  | badFilter
  | badBitDepth
  | unsupportedColorType
  | unsupportedMode
  | paletteMiss
  | inflateError
  | deflateError
  | unsupportedInterlace
  | corruptChunk
  | paletteIndexRange
  deriving DecidableEq, Repr

/-- The RW registers, indices 0 to 21 of 10_state R24, in that order. -/
structure Cfg where
  width : BitVec 32
  height : BitVec 32
  bitDepth : BitVec 8
  colorType : BitVec 8
  filterMethod : BitVec 8
  interlace : BitVec 8
  dir : BitVec 1
  trnsKind : BitVec 2
  trnsGray : BitVec 16
  trnsR : BitVec 8
  trnsG : BitVec 8
  trnsB : BitVec 8
  palLen : BitVec 9
  apalLen : BitVec 9
  filterMode : BitVec 1
  fixedFilterValid : BitVec 1
  fixedFilter : BitVec 8
  srcAbgr : BitVec 1
  maxPalSet : BitVec 1
  maxPal : BitVec 32
  reduce : BitVec 1
  fstreamLen : Nat
  deriving DecidableEq, Repr

/-- A move of the host (44_control R220, R233), or a turn it leaves to the engine. -/
inductive HostMove where
  /-- RegRead of a register index (R24, R233). -/
  | regRead (index : Nat)
  /-- RegWrite; index 48 is CMD (R24, R50; a value above 255 is cut to 8 bits, log 18). -/
  | regWrite (index value : Nat)
  /-- PalWrite(k, (R, G, B)). -/
  | palWrite (k : Byte) (c : Rgb)
  /-- PalRead(k). -/
  | palRead (k : Byte)
  /-- ApalWrite(k, a). -/
  | apalWrite (k a : Byte)
  /-- ApalRead(k). -/
  | apalRead (k : Byte)
  /-- A write of one byte of FSTREAM (R220). -/
  | fstreamWrite (addr : Nat) (b : Byte)
  /-- A read of one byte of FSTREAM. -/
  | fstreamRead (addr : Nat)
  /-- A write of one byte of PIX. -/
  | pixWrite (addr : Nat) (b : Byte)
  /-- A read of one byte of PIX. -/
  | pixRead (addr : Nat)
  /-- A write of a command code to CMD (R50, R105). -/
  | cmd (code : Byte)
  /-- The host makes no move this turn: the engine, if Running, takes one step (R226). -/
  | yield
  /-- The host reads STATE until it is not Running (R244): the engine steps meanwhile. -/
  | await
  deriving DecidableEq, Repr

/-- What the host's last read handed back (R233). -/
inductive HostData where
  | nothing
  | number (n : Nat)
  | byte (b : Byte)
  | colour (c : Rgb)
  deriving DecidableEq, Repr

/-- Model-level faults: there are none. Every fault the spec describes is a NEXT state (60_exceptions R250), every step is total
(70_reset_and_hazards R297) and no offset of either space is missing (20_memory R60); nobody raises one, which is safe. -/
inductive Fault where
  deriving DecidableEq, Repr

/-- Moves the spec gives no meaning and tells a model to refuse (93_implementation_defined, treatment `refuse`). -/
inductive Refusal where
  /-- An arm of `exec` with no meaning yet. No arm answers with it; safe. -/
  | notModelled (mnemonic : String)
  /-- The host wrote a reserved code to CMD (30_encoding R106, U4). Raised by the host port; safe. -/
  | reservedCommand (code : Byte)
  /-- The host named a register index that names nothing (10_state R24, U5). Raised by the host port; safe. -/
  | noSuchRegister (index : Nat)
  /-- The host wrote a read-only register (10_state R24, U5). Raised by the host port; safe. -/
  | readOnlyRegister (index : Nat)
  /-- The host read CMD, which holds no value (10_state R50, U5). Raised by the host port; safe. -/
  | writeOnlyRegister (index : Nat)
  /-- The host wrote FSTREAM or PIX while Running (70_reset_and_hazards R290, U7). Raised by the host port; safe. -/
  | memoryWriteWhileRunning
  /-- The palette scan exceeded EPAL_CAP (43_pack R197, U12). Raised by START when `Config.epalCap` is set; safe. -/
  | epalCapExceeded
  deriving DecidableEq, Repr

/-- The state of the block (10_state R20), then the model's own three fields. -/
structure State where
  /-- Configuration registers. -/
  cfg : Cfg
  /-- STATE. -/
  status : RunState
  /-- ERR. -/
  err : ErrKind
  errRow : BitVec 32
  errInfo : BitVec 32
  /-- Y, the row being executed (R48). -/
  y : BitVec 32
  /-- IP, the byte offset of scanline Y in FSTREAM (R49). -/
  ip : Nat
  /-- FT (R45). -/
  ft : BitVec 8
  /-- BIT_DEPTH_EFF (R46). -/
  bitDepthEff : BitVec 8
  /-- CUR, called RAW in the encode direction (R21). -/
  cur : RowBuf
  /-- PREV, called RAWPREV in the encode direction (R22). -/
  prev : RowBuf
  /-- PAL (R51). -/
  pal : Store Rgb
  /-- APAL (R52). -/
  apal : Store Byte
  /-- EPAL (R53). -/
  epal : List Rgba
  /-- RMAP (R54): (dropped colour, kept colour), each dropped colour once. -/
  rmap : List (Rgba × Rgba)
  /-- FSTREAM (20_memory R61). -/
  fstream : Memory
  /-- PIX (20_memory R62). -/
  pix : Memory
  /-- MODEL's own: the host's moves still to come (log 3). -/
  pending : List HostMove
  /-- MODEL's own: what the host's last read handed back (log 3). -/
  hostData : HostData
  /-- MODEL's own: the next unused tag for free values (log 2). -/
  freeCount : Nat
  deriving DecidableEq, Repr

/-- Every RW register at 0 (10_state R57). -/
def Cfg.reset : Cfg where
  width := 0
  height := 0
  bitDepth := 0
  colorType := 0
  filterMethod := 0
  interlace := 0
  dir := 0
  trnsKind := 0
  trnsGray := 0
  trnsR := 0
  trnsG := 0
  trnsB := 0
  palLen := 0
  apalLen := 0
  filterMode := 0
  fixedFilterValid := 0
  fixedFilter := 0
  srcAbgr := 0
  maxPalSet := 0
  maxPal := 0
  reduce := 0
  fstreamLen := 0

/-- The block at power-on (10_state R57, 70_reset_and_hazards R280): every register 0, STATE Idle, EPAL and RMAP empty; the row
buffers, tables and spaces unwritten, each under a tag of its own (logs 4, 5). -/
def State.reset : State where
  cfg := Cfg.reset
  status := .idle
  err := .none
  errRow := 0
  errInfo := 0
  y := 0
  ip := 0
  ft := 0
  bitDepthEff := 0
  cur := ⟨4, []⟩
  prev := ⟨5, []⟩
  pal := ⟨2, []⟩
  apal := ⟨3, []⟩
  epal := []
  rmap := []
  fstream := ⟨0, []⟩
  pix := ⟨1, []⟩
  pending := []
  hostData := .nothing
  freeCount := 6

end Sys2Proof.Machine
end

