-- ==== Sys2Proof/Machine/Flags.lean ====
section
/-! DEFINITION. The block has no condition codes, carry or overflow flags (10_state R47); the only flags of the spec's rule
template are the status registers. Here stand the numbers under which the host reads STATE and ERR. -/

namespace Sys2Proof.Machine

/-- The value of STATE (10_state R42). -/
def RunState.code : RunState → BitVec 2
  | .idle => 0
  | .running => 1
  | .done => 2
  | .faulted => 3

/-- The value of ERR (60_exceptions R241). -/
def ErrKind.code : ErrKind → BitVec 8
  | .none => 0
  | .badSignature => 1
  | .truncated => 2
  | .chunkLengthMismatch => 3
  | .badHeader => 4
  | .badPalette => 5
  | .missingPalette => 6
  | .missingData => 7
  | .badTransparency => 8
  | .badFilter => 9
  | .badBitDepth => 10
  | .unsupportedColorType => 11
  | .unsupportedMode => 12
  | .paletteMiss => 13
  | .inflateError => 14
  | .deflateError => 15
  | .unsupportedInterlace => 16
  | .corruptChunk => 17
  | .paletteIndexRange => 18

end Sys2Proof.Machine
end

