-- ==== Sys2Proof/Syntax.lean ====
section
/-! DEFINITION. The 31 operations of 30_encoding R90 and opcode_table.json, one constructor per row. -/

namespace Sys2Proof

/-- One constructor per row of the opcode table. The DATA bytes of a scanline are no part of the table's word: they stay in
FSTREAM, where the operation reads them (40_unfilter R120) or writes them (42_filter R170). -/
inductive Instr where
  /-- UNFILT.NONE, FTYPE 0x00 in the decode direction (R126). -/
  | unfiltNone
  /-- UNFILT.SUB, FTYPE 0x01 (R127). -/
  | unfiltSub
  /-- UNFILT.UP, FTYPE 0x02 (R128). -/
  | unfiltUp
  /-- UNFILT.AVG, FTYPE 0x03 (R129). -/
  | unfiltAvg
  /-- UNFILT.PAETH, FTYPE 0x04 (R130). -/
  | unfiltPaeth
  /-- FILT.NONE, emits FTYPE 0x00 in the encode direction (R179). -/
  | filtNone
  /-- FILT.SUB, emits 0x01 (R180). -/
  | filtSub
  /-- FILT.UP, emits 0x02 (R181). -/
  | filtUp
  /-- FILT.AVG, emits 0x03 (R182). -/
  | filtAvg
  /-- FILT.PAETH, emits 0x04 (R183). -/
  | filtPaeth
  /-- UNPACK.G1, MODE 0x0100 (R145). -/
  | unpackG1
  /-- UNPACK.G2, MODE 0x0200 (R146). -/
  | unpackG2
  /-- UNPACK.G4, MODE 0x0400 (R147). -/
  | unpackG4
  /-- UNPACK.G8, MODE 0x0800 (R148). -/
  | unpackG8
  /-- UNPACK.G16, MODE 0x1000 (R149). -/
  | unpackG16
  /-- UNPACK.RGB8, MODE 0x0802 (R150). -/
  | unpackRgb8
  /-- UNPACK.RGB16, MODE 0x1002 (R151). -/
  | unpackRgb16
  /-- UNPACK.P1, MODE 0x0103 (R152). -/
  | unpackP1
  /-- UNPACK.P2, MODE 0x0203 (R153). -/
  | unpackP2
  /-- UNPACK.P4, MODE 0x0403 (R154). -/
  | unpackP4
  /-- UNPACK.P8, MODE 0x0803 (R155). -/
  | unpackP8
  /-- UNPACK.GA8, MODE 0x0804 (R156). -/
  | unpackGa8
  /-- UNPACK.GA16, MODE 0x1004 (R157). -/
  | unpackGa16
  /-- UNPACK.RGBA8, MODE 0x0806 with DIR = 0 (R158). -/
  | unpackRgba8
  /-- UNPACK.RGBA16, MODE 0x1006 (R159). -/
  | unpackRgba16
  /-- PACK.RGBA8, MODE 0x0806 with DIR = 1 (R191). -/
  | packRgba8
  /-- PACK.RGB8, MODE 0x0802 with DIR = 1 (R192). -/
  | packRgb8
  /-- PACK.IDX8, COLOR_TYPE byte 3 with DIR = 1; the BIT_DEPTH byte is its one operand field, 0, 1, 2, 4 or 8 (R101, R193). -/
  | packIdx8 (bitDepth : Byte)
  /-- NOP, CMD 0x00 (R221). -/
  | nop
  /-- START, CMD 0x01 (R223). -/
  | start
  /-- RESET, CMD 0x02 (R232). -/
  | reset
  deriving DecidableEq, Repr

end Sys2Proof
end

