-- ==== Sys2Proof/WellFormed.lean ====
section
/-! DEFINITION. Which terms of `Instr` are operations of the block. -/

namespace Sys2Proof

/-- The BIT_DEPTH bytes of a legal PACK.IDX8 mode word (30_encoding R101). -/
def idx8Depths : List Byte := [0, 1, 2, 4, 8]

/-- Only PACK.IDX8 has an operand field, and only its five depths are legal (R101). -/
def Instr.wellFormed : Instr → Bool
  | .packIdx8 bd => idx8Depths.contains bd
  | .unfiltNone | .unfiltSub | .unfiltUp | .unfiltAvg | .unfiltPaeth
  | .filtNone | .filtSub | .filtUp | .filtAvg | .filtPaeth
  | .unpackG1 | .unpackG2 | .unpackG4 | .unpackG8 | .unpackG16
  | .unpackRgb8 | .unpackRgb16 | .unpackP1 | .unpackP2 | .unpackP4 | .unpackP8
  | .unpackGa8 | .unpackGa16 | .unpackRgba8 | .unpackRgba16
  | .packRgba8 | .packRgb8 | .nop | .start | .reset => true

end Sys2Proof
end

