-- ==== Sys2Proof/Decode.lean ====
section
/-! DEFINITION. The three encodings of 30_encoding: the scanline's FTYPE byte, the mode word, the command code. The same bits
name different operations in different contexts (R90), so the decoder is given the context. -/

namespace Sys2Proof

/-- DIR: decode (0) or encode (1) (10_state R31). -/
inductive Direction where
  | decode
  | encode
  deriving DecidableEq, Repr

/-- What selects an operation (30_encoding R90). -/
inductive Context where
  /-- The filter-type byte of a scanline. -/
  | scanline (d : Direction)
  /-- The pair (BIT_DEPTH, COLOR_TYPE). -/
  | mode (d : Direction)
  /-- The byte written to CMD. -/
  | command
  deriving DecidableEq, Repr

/-- Why a word names no operation. -/
inductive DecodeError where
  /-- Fewer bytes than the word has. -/
  | short
  /-- FTYPE above 4 (R96). -/
  | badFilter (ft : Byte)
  /-- DIR = 0 and COLOR_TYPE not in 0, 2, 3, 4, 6 (R100). -/
  | unknownColorType (ct : Byte)
  /-- DIR = 0 and a BIT_DEPTH outside the colour type's set (R100). -/
  | badBitDepth (bd ct : Byte)
  /-- DIR = 1 and no packer for the pair (R101). -/
  | unsupportedMode (bd ct : Byte)
  /-- CMD 0x03 to 0xFF (R106). -/
  | reservedCommand (code : Byte)
  deriving DecidableEq, Repr

/-- The opcode map of FTYPE, decode direction (R92); the whole byte is compared (R91). -/
def decodeUnfilt (ft : Byte) : Except DecodeError Instr :=
  match ft.toNat with
  | 0 => .ok .unfiltNone
  | 1 => .ok .unfiltSub
  | 2 => .ok .unfiltUp
  | 3 => .ok .unfiltAvg
  | 4 => .ok .unfiltPaeth
  | _ => .error (.badFilter ft)

/-- The opcode map of FTYPE, encode direction (R92). -/
def decodeFilt (ft : Byte) : Except DecodeError Instr :=
  match ft.toNat with
  | 0 => .ok .filtNone
  | 1 => .ok .filtSub
  | 2 => .ok .filtUp
  | 3 => .ok .filtAvg
  | 4 => .ok .filtPaeth
  | _ => .error (.badFilter ft)

/-- The 15 legal mode words with DIR = 0 (R99); the illegal ones by name (R100). -/
def decodeUnpack (bd ct : Byte) : Except DecodeError Instr :=
  match ct.toNat, bd.toNat with
  | 0, 1 => .ok .unpackG1
  | 0, 2 => .ok .unpackG2
  | 0, 4 => .ok .unpackG4
  | 0, 8 => .ok .unpackG8
  | 0, 16 => .ok .unpackG16
  | 2, 8 => .ok .unpackRgb8
  | 2, 16 => .ok .unpackRgb16
  | 3, 1 => .ok .unpackP1
  | 3, 2 => .ok .unpackP2
  | 3, 4 => .ok .unpackP4
  | 3, 8 => .ok .unpackP8
  | 4, 8 => .ok .unpackGa8
  | 4, 16 => .ok .unpackGa16
  | 6, 8 => .ok .unpackRgba8
  | 6, 16 => .ok .unpackRgba16
  | 0, _ | 2, _ | 3, _ | 4, _ | 6, _ => .error (.badBitDepth bd ct)
  | _, _ => .error (.unknownColorType ct)

/-- The legal mode words with DIR = 1 (R101). -/
def decodePack (bd ct : Byte) : Except DecodeError Instr :=
  match ct.toNat with
  | 6 => if bd = 8 then .ok .packRgba8 else .error (.unsupportedMode bd ct)
  | 2 => if bd = 8 then .ok .packRgb8 else .error (.unsupportedMode bd ct)
  | 3 => if idx8Depths.contains bd then .ok (.packIdx8 bd) else .error (.unsupportedMode bd ct)
  | _ => .error (.unsupportedMode bd ct)

/-- The command codes (R105); the rest is reserved (R106). -/
def decodeCommand (code : Byte) : Except DecodeError Instr :=
  match code.toNat with
  | 0 => .ok .nop
  | 1 => .ok .start
  | 2 => .ok .reset
  | _ => .error (.reservedCommand code)

/-- The decoder, total on any bytes: it answers the operation and the bytes after its word. A mode word is the two header
bytes BIT_DEPTH, COLOR_TYPE in that order (R98). -/
def decode : Context → List Byte → Except DecodeError (Instr × List Byte)
  | .scanline .decode, ft :: rest => (decodeUnfilt ft).map (·, rest)
  | .scanline .encode, ft :: rest => (decodeFilt ft).map (·, rest)
  | .mode .decode, bd :: ct :: rest => (decodeUnpack bd ct).map (·, rest)
  | .mode .encode, bd :: ct :: rest => (decodePack bd ct).map (·, rest)
  | .command, code :: rest => (decodeCommand code).map (·, rest)
  | _, _ => .error .short

/-- The context in which an operation's word stands (R90). -/
def Instr.context : Instr → Context
  | .unfiltNone | .unfiltSub | .unfiltUp | .unfiltAvg | .unfiltPaeth => .scanline .decode
  | .filtNone | .filtSub | .filtUp | .filtAvg | .filtPaeth => .scanline .encode
  | .unpackG1 | .unpackG2 | .unpackG4 | .unpackG8 | .unpackG16
  | .unpackRgb8 | .unpackRgb16 | .unpackP1 | .unpackP2 | .unpackP4 | .unpackP8
  | .unpackGa8 | .unpackGa16 | .unpackRgba8 | .unpackRgba16 => .mode .decode
  | .packRgba8 | .packRgb8 | .packIdx8 _ => .mode .encode
  | .nop | .start | .reset => .command

/-- The encoder, from the same tables (R92, R99, R101, R105). -/
def encode : Instr → List Byte
  | .unfiltNone | .filtNone => [0]
  | .unfiltSub | .filtSub => [1]
  | .unfiltUp | .filtUp => [2]
  | .unfiltAvg | .filtAvg => [3]
  | .unfiltPaeth | .filtPaeth => [4]
  | .unpackG1 => [1, 0]
  | .unpackG2 => [2, 0]
  | .unpackG4 => [4, 0]
  | .unpackG8 => [8, 0]
  | .unpackG16 => [16, 0]
  | .unpackRgb8 | .packRgb8 => [8, 2]
  | .unpackRgb16 => [16, 2]
  | .unpackP1 => [1, 3]
  | .unpackP2 => [2, 3]
  | .unpackP4 => [4, 3]
  | .unpackP8 => [8, 3]
  | .unpackGa8 => [8, 4]
  | .unpackGa16 => [16, 4]
  | .unpackRgba8 | .packRgba8 => [8, 6]
  | .unpackRgba16 => [16, 6]
  | .packIdx8 bd => [bd, 3]
  | .nop => [0]
  | .start => [1]
  | .reset => [2]

/-- The bytes of an opcode-table word: an 8-bit word is one byte; a mode word has BIT_DEPTH in bits 15..8 and COLOR_TYPE in
bits 7..0 (R98) and stands as the header's two bytes. -/
def tableBytes (nbits w : Nat) : List Byte :=
  if nbits = 8 then [BitVec.ofNat 8 w]
  else if nbits = 16 then [BitVec.ofNat 8 (w / 256), BitVec.ofNat 8 w]
  else []

/-- The contexts a bare table word is tried in. The table gives UNFILT, FILT and the commands the same bytes, and UNPACK and
PACK the same words; a bare word carries no context, so it is read as reset has it (DIR = 0) first. Log 6. -/
def tableContexts (nbits : Nat) : List Context :=
  if nbits = 8 then [.scanline .decode, .scanline .encode, .command]
  else [.mode .decode, .mode .encode]

/-- The first context of a list in which the bytes are an operation. -/
def firstDecoded (bytes : List Byte) : List Context → Option (Context × Instr)
  | [] => none
  | c :: cs =>
    match decode c bytes with
    | .ok (i, _) => some (c, i)
    | .error _ => firstDecoded bytes cs

/-- What the decoder reads from a bare word of the opcode table (log 6). -/
def decodeTableWord (nbits w : Nat) : Option Instr :=
  if w < 2 ^ nbits then (firstDecoded (tableBytes nbits w) (tableContexts nbits)).map Prod.snd else none

end Sys2Proof
end

