-- ==== Sys2Proof/Machine/Geometry.lean ====
section
/-! DEFINITION. The derived geometry: functions of the configuration and nothing else (00_scope R10, R11; 43_pack R190). All
products are unbounded naturals. -/

namespace Sys2Proof.Machine

/-- DIR as a direction (10_state R31). -/
def Cfg.direction (c : Cfg) : Direction := if c.dir = 1 then .encode else .decode

/-- SPP of a COLOR_TYPE (R10). The illegal colour types have no SPP in the spec; START never lets one run, and 0 stands there
(log 8). -/
def sppOf (colorType : Nat) : Nat :=
  match colorType with
  | 0 => 1
  | 2 => 3
  | 3 => 1
  | 4 => 2
  | 6 => 4
  | _ => 0

def Cfg.spp (c : Cfg) : Nat := sppOf c.colorType.toNat

/-- The bit depth the geometry uses: BIT_DEPTH in the decode direction, 8 in the encode direction whatever BIT_DEPTH holds
(43_pack R190). -/
def Cfg.depth (c : Cfg) : Nat :=
  match c.direction with
  | .decode => c.bitDepth.toNat
  | .encode => 8

/-- BPP, bits per pixel. -/
def Cfg.bpp (c : Cfg) : Nat := c.spp * c.depth

/-- ROWB, the bytes of a row without its filter-type byte. -/
def Cfg.rowb (c : Cfg) : Nat := (c.width.toNat * c.bpp + 7) / 8

/-- FU, the filter unit. -/
def Cfg.fu (c : Cfg) : Nat := if 8 ≤ c.depth then c.spp * (c.depth / 8) else 1

/-- SLEN, the length of a scanline in FSTREAM. -/
def Cfg.slen (c : Cfg) : Nat := 1 + c.rowb

end Sys2Proof.Machine
end

