-- ==== Sys2Proof/Machine/Ops.lean ====
section
/-! DEFINITION. The named operations over the sparse stores, the row buffers, the spaces and the tables; fault entry
(60_exceptions R250) and what it leaves unspecified (R252); the end of a row. -/

namespace Sys2Proof.Machine

/-! ### Sparse stores -/

/-- The element listed under `k`, if any. -/
def lookupCell {α : Type} (k : Nat) : List (Nat × α) → Option α
  | [] => none
  | c :: cs => if c.1 = k then some c.2 else lookupCell k cs

/-- Lists `v` under `k`, keeping the indices strictly rising. -/
def insertCell {α : Type} (k : Nat) (v : α) : List (Nat × α) → List (Nat × α)
  | [] => [(k, v)]
  | c :: cs =>
    if k < c.1 then (k, v) :: c :: cs
    else if k = c.1 then (k, v) :: cs
    else c :: insertCell k v cs

/-- The written element at `k`, or none where nothing has been written. -/
def Store.get? {α : Type} (m : Store α) (k : Nat) : Option α := lookupCell k m.cells

/-- Writes one element. -/
def Store.write {α : Type} (m : Store α) (k : Nat) (v : α) : Store α := { m with cells := insertCell k v m.cells }

/-- Writes elements at ascending indices from `k` (00_scope R16: ascending single writes). -/
def Store.writeList {α : Type} (m : Store α) (k : Nat) : List α → Store α
  | [] => m
  | v :: vs => Store.writeList (m.write k v) (k + 1) vs

/-- A store nothing of which is written, under the tag `t`. -/
def Store.unwritten {α : Type} (t : Nat) : Store α := ⟨t, []⟩

/-- The canonical form: indices strictly rising. No entry can equal what an unlisted index reads as, since that has no value. -/
abbrev Store.wf {α : Type} (m : Store α) : Prop := (m.cells.map Prod.fst).Pairwise (· < ·)

/-- The canonical form of a byte space. -/
abbrev Memory.wf (m : Memory) : Prop := Store.wf m

/-- One byte of a byte-valued store; an unwritten one is a free value (70_reset_and_hazards R281, log 4). -/
def Memory.byte (m : Memory) (k : Nat) : Byte :=
  match m.get? k with
  | some b => b
  | none => Config.freeByte m.tag k

/-- One triple of PAL; an unwritten one is three free bytes (10_state R51, log 5). -/
def palEntry (m : Store Rgb) (k : Nat) : Rgb :=
  match m.get? k with
  | some c => c
  | none => ⟨Config.freeByte m.tag (3 * k), Config.freeByte m.tag (3 * k + 1), Config.freeByte m.tag (3 * k + 2)⟩

/-- Byte `i` of a row buffer; an unwritten one is a free value (70_reset_and_hazards R281, log 5). -/
def RowBuf.byte (b : RowBuf) (i : Nat) : Byte :=
  match b.bytes[i]? with
  | some v => v
  | none => Config.freeByte b.tag i

/-! ### MemRead and MemWrite (00_scope R16) -/

/-- MemRead(FSTREAM, a, 1). -/
def State.readFstream (s : State) (a : Nat) : Byte := s.fstream.byte a

/-- MemRead(PIX, a, 1). -/
def State.readPix (s : State) (a : Nat) : Byte := s.pix.byte a

/-- MemWrite(FSTREAM, a, n, bs): single-byte writes in ascending order. -/
def State.writeFstream (s : State) (a : Nat) (bs : List Byte) : State := { s with fstream := s.fstream.writeList a bs }

/-- MemWrite(PIX, a, n, bs). -/
def State.writePix (s : State) (a : Nat) (bs : List Byte) : State := { s with pix := s.pix.writeList a bs }

/-- Fills CUR (RAW) with the bytes of a row (10_state R21). -/
def State.setCur (s : State) (row : List Byte) : State := { s with cur := { s.cur with bytes := row } }

/-! ### Unspecified contents and fault entry -/

/-- The output space of the run takes unspecified values (60_exceptions R252): PIX in the decode direction; FSTREAM, PAL, APAL,
PAL_LEN, APAL_LEN, TRNS_KIND, BIT_DEPTH_EFF and FSTREAM_LEN in the encode direction. CUR with it (44_control R228). Each is a
free value under a tag of its own (log 2). -/
def State.scrambleOutput (s : State) : State :=
  let n := s.freeCount
  match s.cfg.direction with
  | .decode =>
    { s with
      cur := ⟨n, []⟩
      pix := Store.unwritten (n + 1)
      freeCount := n + 2 }
  | .encode =>
    { s with
      cur := ⟨n, []⟩
      fstream := Store.unwritten (n + 1)
      pal := Store.unwritten (n + 2)
      apal := Store.unwritten (n + 3)
      cfg := { s.cfg with
        palLen := BitVec.ofNat 9 (Config.freeNat (n + 4))
        apalLen := BitVec.ofNat 9 (Config.freeNat (n + 5))
        trnsKind := BitVec.ofNat 2 (Config.freeNat (n + 6))
        fstreamLen := Config.freeNat (n + 7) }
      bitDepthEff := BitVec.ofNat 8 (Config.freeNat (n + 8))
      freeCount := n + 9 }

/-- The four writes of fault entry (60_exceptions R250): nothing else is saved, and Y, IP and FT keep their values. -/
def State.enterFault (s : State) (k : ErrKind) (row info : BitVec 32) : State :=
  { s with err := k, errRow := row, errInfo := info, status := .faulted }

/-- `raise Kind(ERR_ROW = row, ERR_INFO = info)` (60_exceptions R250), after which the output space is unspecified (R252). It is
the block's one exception; there is no return from it but RESET (R253). -/
def State.raise (s : State) (k : ErrKind) (row info : BitVec 32) : State :=
  s.scrambleOutput.enterFault k row info

/-! ### The end of a row -/

/-- `PREV <- CUR ; Y <- Y + 1 ; IP <- IP + SLEN` (44_control R228, 42_filter R170). -/
def State.nextRow (s : State) : State :=
  { s with prev := s.cur, y := s.y + 1, ip := s.ip + s.cfg.slen }

/-- `if Y = HEIGHT then STATE <- Done` (44_control R228). -/
def State.finishDecode (s : State) : State :=
  if s.y = s.cfg.height then { s with status := .done } else s

/-- `if Y = HEIGHT then FSTREAM_LEN <- HEIGHT * SLEN ; STATE <- Done` (44_control R229). -/
def State.finishEncode (s : State) : State :=
  if s.y = s.cfg.height then
    { s with cfg := { s.cfg with fstreamLen := s.cfg.height.toNat * s.cfg.slen }, status := .done }
  else s

/-- Goes on with the next state of an outcome. -/
def andThen (o : Host.Outcome State Fault Refusal) (f : State → Host.Outcome State Fault Refusal) :
    Host.Outcome State Fault Refusal :=
  match o with
  | .next s => f s
  | .fault r => .fault r
  | .refused r => .refused r

end Sys2Proof.Machine
end

