-- ==== Sys2Proof/Machine/Operands.lean ====
section
/-! DEFINITION. The operand forms: the predictors and neighbours of the filters, the samples of the unpackers, the source pixel
of the packers. -/

namespace Sys2Proof.Machine

/-! ### Predictors (40_unfilter R120, R123, R124) -/

/-- A predictor of left, up, up_left. -/
abbrev Predictor := Byte → Byte → Byte → Byte

/-- None: 0. -/
def predNone : Predictor := fun _ _ _ => 0

/-- Sub: left. -/
def predSub : Predictor := fun a _ _ => a

/-- Up: up. -/
def predUp : Predictor := fun _ b _ => b

/-- Average: floor((left + up) / 2), the sum not wrapped (R123). -/
def predAvg : Predictor := fun a b _ => BitVec.ofNat 8 ((a.toNat + b.toNat) / 2)

/-- `paeth(a, b, c)` over integers; ties go to a, then b, then c (R124). -/
def paeth : Predictor := fun a b c =>
  let p : Int := (a.toNat : Int) + (b.toNat : Int) - (c.toNat : Int)
  let pa := (p - (a.toNat : Int)).natAbs
  let pb := (p - (b.toNat : Int)).natAbs
  let pc := (p - (c.toNat : Int)).natAbs
  if pa ≤ pb ∧ pa ≤ pc then a
  else if pb ≤ pc then b
  else c

/-! ### Neighbours (40_unfilter R121, 42_filter R171) -/

/-- The byte `fu` before byte `i` of a row, 0 when that is before the row. -/
def before (row : Nat → Byte) (fu i : Nat) : Byte := if fu ≤ i then row (i - fu) else 0

/-- The first `n` recovered bytes of a row, in ascending order (40_unfilter R120, R122): byte `i` is `f i` plus the predictor of
the recovered byte `fu` before it, the byte above and the byte above that one. All 8 bits of a byte take part, the pad bits of a
sub-byte row too, so that a carry out of pad bits reaches pixel bits: DESIGN CHOICE, unsafe, between this arithmetic and the words "no
effect on PIX" of 30_encoding R95; log 19. -/
def recoverRow (pred : Predictor) (fu : Nat) (f up : Nat → Byte) : Nat → List Byte
  | 0 => []
  | i + 1 =>
    let row := recoverRow pred fu f up i
    row ++ [f i + pred (before (fun j => row.getD j 0) fu i) (up i) (before up fu i)]

/-- `filt(ft, i)`: the raw byte less the predictor of its raw neighbours, mod 256 (42_filter R171, R172). -/
def filteredByte (pred : Predictor) (fu : Nat) (raw up : Nat → Byte) (i : Nat) : Byte :=
  raw i - pred (before raw fu i) (up i) (before up fu i)

/-! ### Samples (41_unpack R141 to R144, R160 to R162) -/

/-- `sample_d(x)` for a depth below 8, most significant bits first (R141). -/
def subByteSample (row : Nat → Byte) (d x : Nat) : Byte :=
  let ppb := 8 / d
  let sh := 8 - d - d * (x % ppb)
  BitVec.ofNat 8 ((row (x / ppb)).toNat / 2 ^ sh % 2 ^ d)

/-- `scale_1`, `scale_2`, `scale_4`: the sample times 255, 85, 17 (R142). -/
def scaleSample (d : Nat) (s : Byte) : Byte := BitVec.ofNat 8 (s.toNat * (255 / (2 ^ d - 1)))

/-- `narrow16(k)`: the high byte of 16-bit sample `k` (R143, 20_memory R64). -/
def narrow16 (row : Nat → Byte) (k : Nat) : Byte := row (2 * k)

/-- `gray_alpha(g)`: the output byte against the 16-bit key (R144). -/
def grayAlpha (c : Cfg) (g : Byte) : Byte :=
  if c.trnsKind = 1 ∧ g.setWidth 16 = c.trnsGray then 0 else 255

/-- `rgb_alpha(R, G, B)`: the output bytes against the key's low bytes (R161). -/
def rgbAlpha (c : Cfg) (r g b : Byte) : Byte :=
  if c.trnsKind = 2 ∧ r = c.trnsR ∧ g = c.trnsG ∧ b = c.trnsB then 0 else 255

/-- A gray byte in all three colour channels (R163). -/
def grayPixel (g a : Byte) : Rgba := ⟨g, g, g, a⟩

/-- A gray pixel under the gray key (R144, R163). -/
def keyedGray (c : Cfg) (g : Byte) : Rgba := grayPixel g (grayAlpha c g)

/-- A colour pixel under the RGB key (R161). -/
def keyedRgb (c : Cfg) (r g b : Byte) : Rgba := ⟨r, g, b, rgbAlpha c r g b⟩

/-- `pal_pixel(idx)` for an index below PAL_LEN (R162). -/
def palPixel (s : State) (idx : Byte) : Rgba :=
  let c := palEntry s.pal idx.toNat
  let a := if s.cfg.trnsKind = 3 ∧ idx.toNat < s.cfg.apalLen.toNat then Memory.byte s.apal idx.toNat else 255
  ⟨c.r, c.g, c.b, a⟩

/-! ### Pixels of PIX (20_memory R62, 43_pack R194) -/

/-- The offset of pixel (x, y). -/
def pixelBase (c : Cfg) (x y : Nat) : Nat := (y * c.width.toNat + x) * 4

/-- The four bytes of a pixel in the order R, G, B, A. -/
def pixelBytes (p : Rgba) : List Byte := [p.r, p.g, p.b, p.a]

/-- `read_pixel(x, y)` (43_pack R194). -/
def readPixel (s : State) (x y : Nat) : Rgba :=
  let base := pixelBase s.cfg x y
  let p0 := s.readPix (base + 0)
  let p1 := s.readPix (base + 1)
  let p2 := s.readPix (base + 2)
  let p3 := s.readPix (base + 3)
  if s.cfg.srcAbgr = 0 then ⟨p0, p1, p2, p3⟩ else ⟨p3, p2, p1, p0⟩

end Sys2Proof.Machine
end

