-- ==== Sys2Proof/Machine/Pack.lean ====
section
/-! DEFINITION. PACK.RGBA8, PACK.RGB8, PACK.IDX8 (43_pack R191 to R193, R204, R205) and the palette prelude of PACK.IDX8 (R195 to
R203, R206), which START runs. -/

namespace Sys2Proof.Machine

/-- RAW takes some bytes of each pixel of row Y, x ascending (R191, R192). -/
def packRow (s : State) (bytes : Rgba → List Byte) : State :=
  s.setCur ((List.range s.cfg.width.toNat).flatMap fun x => bytes (readPixel s x s.y.toNat))

/-- PACK.RGBA8 (R191). -/
def execPackRgba8 (s : State) : Host.Outcome State Fault Refusal :=
  .next (packRow s fun p => [p.r, p.g, p.b, p.a])

/-- PACK.RGB8: the alpha byte is dropped (R192). -/
def execPackRgb8 (s : State) : Host.Outcome State Fault Refusal :=
  .next (packRow s fun p => [p.r, p.g, p.b])

/-- `index_of(c)` (00_scope R15): the first position of a colour in a palette. -/
def indexOf (c : Rgba) : List Rgba → Option Nat
  | [] => none
  | e :: es => if e = c then some 0 else (indexOf c es).map (· + 1)

/-- `RMAP[c]`. -/
def rmapLookup (c : Rgba) : List (Rgba × Rgba) → Option Rgba
  | [] => none
  | m :: ms => if m.1 = c then some m.2 else rmapLookup c ms

/-- `index_for(c)`: in EPAL, else through RMAP (R204). -/
def indexFor (epal : List Rgba) (rmap : List (Rgba × Rgba)) (c : Rgba) : Option Nat :=
  match indexOf c epal with
  | some k => some k
  | none => (rmapLookup c rmap).bind fun kept => indexOf kept epal

/-- The index of pixel `x` of row Y. -/
def pixelIndex (s : State) (x : Nat) : Option Nat := indexFor s.epal s.rmap (readPixel s x s.y.toNat)

/-- The first pixel of row Y, x ascending, with no representative (R204, 60_exceptions R246). -/
def firstMiss (s : State) : Option Nat :=
  (List.range s.cfg.width.toNat).find? fun x => (pixelIndex s x).isNone

/-- PACK.IDX8, the pixel pass (R193): RAW takes one index byte a pixel, whatever the BIT_DEPTH byte of the mode word; PaletteMiss
with ERR_ROW = Y and ERR_INFO = (Y * WIDTH + x) mod 2^32 at the first pixel without one (R204, R205). -/
def execPackIdx8 (_bitDepth : Byte) (s : State) : Host.Outcome State Fault Refusal :=
  match firstMiss s with
  | some x => .next (s.raise .paletteMiss s.y (BitVec.ofNat 32 (s.y.toNat * s.cfg.width.toNat + x)))
  | none => .next (s.setCur ((List.range s.cfg.width.toNat).map fun x => BitVec.ofNat 8 ((pixelIndex s x).getD 0)))

/-! ### The prelude -/

/-- All pixels in row-major order (R196). -/
def allPixels (s : State) : List Rgba :=
  (List.range s.cfg.height.toNat).flatMap fun y => (List.range s.cfg.width.toNat).map fun x => readPixel s x y

/-- The palette scan (R196): each colour not yet in the palette is appended; none where that would make more than `cap` entries
(R197). -/
def scanPalette (cap : Option Nat) : List Rgba → List Rgba → Option (List Rgba)
  | epal, [] => some epal
  | epal, c :: cs =>
    if epal.contains c then scanPalette cap epal cs
    else if cap.any (fun n => decide (n ≤ epal.length)) then none
    else scanPalette cap (epal ++ [c]) cs

/-- Bit-depth determination from the unreduced size (R199). -/
def effectiveDepth (bitDepth : Byte) (n : Nat) : Byte :=
  if bitDepth ≠ 0 then bitDepth
  else if n ≤ 2 then 1
  else if n ≤ 4 then 2
  else if n ≤ 16 then 4
  else 8

/-- The palette limit (R200). -/
def paletteLimit (c : Cfg) (bd : Byte) : Nat :=
  let l := min 256 (2 ^ bd.toNat)
  if c.maxPalSet = 1 then min l c.maxPal.toNat else l

/-- The squared distance of two channel bytes. -/
def sqDiff (u v : Byte) : Nat := ((u.toNat : Int) - (v.toNat : Int)).natAbs ^ 2

/-- `dist2` over the four channels (R203). -/
def dist2 (u v : Rgba) : Nat := sqDiff u.r v.r + sqDiff u.g v.g + sqDiff u.b v.b + sqDiff u.a v.a

/-- The pairs (i, j), i < j < n, in lexicographic order (R202). -/
def indexPairs (n : Nat) : List (Nat × Nat) :=
  (List.range n).flatMap fun i => ((List.range n).filter (i < ·)).map fun j => (i, j)

/-- The distance of the entries at a pair of positions. -/
def pairDist (epal : List Rgba) (p : Nat × Nat) : Nat :=
  dist2 (epal.getD p.1 ⟨0, 0, 0, 0⟩) (epal.getD p.2 ⟨0, 0, 0, 0⟩)

/-- The first pair of a list with the minimal distance, given the best so far (R202). -/
def closestOf (epal : List Rgba) (best : Nat × Nat) : List (Nat × Nat) → Nat × Nat
  | [] => best
  | p :: ps => closestOf epal (if pairDist epal p < pairDist epal best then p else best) ps

/-- The closest pair of a palette of two or more entries, the first in lexicographic order among equals (R202). -/
def closestPair (epal : List Rgba) : Nat × Nat := closestOf epal (0, 1) (indexPairs epal.length)

/-- `RMAP[k] <- v`. -/
def rmapSet (k v : Rgba) (m : List (Rgba × Rgba)) : List (Rgba × Rgba) := m.filter (fun e => e.1 ≠ k) ++ [(k, v)]

/-- One pass of the reduction: the later entry of the closest pair is dropped, earlier mappings to it are re-pointed (R202). -/
def mergeClosest (epal : List Rgba) (rmap : List (Rgba × Rgba)) : List Rgba × List (Rgba × Rgba) :=
  let p := closestPair epal
  let kept := epal.getD p.1 ⟨0, 0, 0, 0⟩
  let dropped := epal.getD p.2 ⟨0, 0, 0, 0⟩
  let repointed := rmap.map fun e => if e.2 = dropped then (e.1, kept) else e
  (epal.eraseIdx p.2, rmapSet dropped kept repointed)

/-- `n` passes of the reduction (R202: `len(EPAL) - limit` of them). -/
def reducePalette : Nat → List Rgba × List (Rgba × Rgba) → List Rgba × List (Rgba × Rgba)
  | 0, em => em
  | n + 1, em => reducePalette n (mergeClosest em.1 em.2)

/-- Palette output (R206): PAL, APAL from EPAL, PAL_LEN, APAL_LEN, TRNS_KIND = 3. -/
def outputPalette (s : State) : State :=
  { s with
    pal := s.pal.writeList 0 (s.epal.map fun e => ⟨e.r, e.g, e.b⟩)
    apal := s.apal.writeList 0 (s.epal.map fun e => e.a)
    cfg := { s.cfg with
      palLen := BitVec.ofNat 9 s.epal.length
      apalLen := BitVec.ofNat 9 s.epal.length
      trnsKind := 3 } }

/-- Steps 4 and 5 of the prelude under a limit (R201, R202, R206). -/
def limitPalette (s : State) (limit : Nat) : State :=
  if s.epal.length ≤ limit then outputPalette s
  else if s.cfg.reduce = 1 then
    let em := reducePalette (s.epal.length - limit) (s.epal, s.rmap)
    outputPalette { s with epal := em.1, rmap := em.2 }
  else s.raise .badPalette 0 0

/-- The PACK.IDX8 prelude (R195): scan, depth, limit, overflow and reduction, output. A scan beyond `cap` is refused (R197). -/
def idx8Prelude (cap : Option Nat) (s : State) : Host.Outcome State Fault Refusal :=
  match scanPalette cap [] (allPixels s) with
  | none => .refused .epalCapExceeded
  | some epal =>
    let bd := effectiveDepth s.cfg.bitDepth epal.length
    .next (limitPalette { s with epal := epal, rmap := [], bitDepthEff := bd } (paletteLimit s.cfg bd))

end Sys2Proof.Machine
end

