-- ==== Sys2Proof/Machine/Control.lean ====
section
/-! DEFINITION. The host commands NOP, START, RESET (44_control R221 to R225, R232). -/

namespace Sys2Proof.Machine

/-- NOP (R221). -/
def execNop (s : State) : Host.Outcome State Fault Refusal := .next s

/-- The fault kind START reports for a mode word that names no operation (R224 checks 4, 5, 9). -/
def decodeErrorKind : DecodeError → ErrKind
  | .short => .badHeader
  | .badFilter _ => .badFilter
  | .unknownColorType _ => .badHeader
  | .badBitDepth _ _ => .badBitDepth
  | .unsupportedMode _ _ => .unsupportedMode
  | .reservedCommand _ => .none

/-- A dimension is 1 to 2^31 - 1 (10_state R25, R26). -/
def legalDim (d : BitVec 32) : Bool := decide (0 < d.toNat ∧ d.toNat < 2 ^ 31)

/-- Check 8: a TRNS_KIND not legal with the colour type, or an alpha palette over 256 (R224). -/
def badTransparency (c : Cfg) : Bool :=
  decide (c.trnsKind = 1 ∧ c.colorType ≠ 0) || decide (c.trnsKind = 2 ∧ c.colorType ≠ 2) ||
    decide (c.trnsKind = 3 ∧ c.colorType ≠ 3) || decide (c.trnsKind = 3 ∧ 256 < c.apalLen.toNat)

/-- Checks 4 to 8, DIR = 0 (R224). -/
def checkDecode (c : Cfg) : Option ErrKind :=
  match decode (.mode .decode) [c.bitDepth, c.colorType] with
  | .error e => some (decodeErrorKind e)
  | .ok _ =>
    if c.colorType = 3 ∧ c.palLen = 0 then some .missingPalette
    else if c.colorType = 3 ∧ 256 < c.palLen.toNat then some .badPalette
    else if badTransparency c then some .badTransparency
    else none

/-- Checks 9 to 11, DIR = 1 (R224). -/
def checkEncode (c : Cfg) : Option ErrKind :=
  match decode (.mode .encode) [c.bitDepth, c.colorType] with
  | .error e => some (decodeErrorKind e)
  | .ok _ =>
    if (c.colorType = 6 ∨ c.colorType = 2) ∧ c.filterMode = 1 ∧ (c.fixedFilterValid = 0 ∨ 4 < c.fixedFilter.toNat) then
      some .badFilter
    else if c.colorType = 3 ∧ c.maxPalSet = 1 ∧ c.maxPal = 0 then some .badPalette
    else none

/-- The checks of START in order; the first that fails names the fault (R224). -/
def startCheck (c : Cfg) : Option ErrKind :=
  if c.filterMethod ≠ 0 then some .badHeader
  else if c.interlace ≠ 0 then some .unsupportedInterlace
  else if !(legalDim c.width && legalDim c.height) then some .badHeader
  else
    match c.direction with
    | .decode => checkDecode c
    | .encode => checkEncode c

/-- Initialisation by an accepted START (R225), the prelude apart. -/
def initRun (s : State) : State :=
  { s with
    y := 0
    ip := 0
    ft := 0
    err := .none
    errRow := 0
    errInfo := 0
    prev := { s.prev with bytes := List.replicate s.cfg.rowb 0 }
    epal := []
    rmap := []
    bitDepthEff := 0
    status := .running }

/-- An accepted START: initialisation, then the PACK.IDX8 prelude where it applies (R225). -/
def acceptStart (s : State) : Host.Outcome State Fault Refusal :=
  if s.cfg.direction = .encode ∧ s.cfg.colorType = 3 then idx8Prelude Config.epalCap (initRun s)
  else .next (initRun s)

/-- START (R223): ignored while Running and in Faulted; else the checks, then the run begins. -/
def execStart (s : State) : Host.Outcome State Fault Refusal :=
  match s.status with
  | .running => .next s
  | .faulted => .next s
  | .idle | .done =>
    match startCheck s.cfg with
    | some k => .next (s.raise k 0 0)
    | none => acceptStart s

/-- RESET (R232): every register takes its reset value, EPAL and RMAP are emptied; the row buffers' and tables' contents become
unspecified (10_state R57). FSTREAM and PIX keep their bytes, but the output space of a run it aborts is unspecified (R232).
The model's own fields are not the block's and stay. -/
def resetState (s : State) : State :=
  let t := if s.status = .running then s.scrambleOutput else s
  let n := t.freeCount
  { State.reset with
    cur := ⟨n, []⟩
    prev := ⟨n + 1, []⟩
    pal := Store.unwritten (n + 2)
    apal := Store.unwritten (n + 3)
    fstream := t.fstream
    pix := t.pix
    pending := s.pending
    hostData := s.hostData
    freeCount := n + 4 }

/-- RESET (R232). -/
def execReset (s : State) : Host.Outcome State Fault Refusal := .next (resetState s)

end Sys2Proof.Machine
end

