-- ==== Sys2Proof/Machine/Filter.lean ====
section
/-! DEFINITION. FILT.NONE, SUB, UP, AVG, PAETH and the choice among them (42_filter R170 to R183): RAW and RAWPREV are read, the
SLEN bytes of FSTREAM scanline Y are written. -/

namespace Sys2Proof.Machine

/-- The ROWB filtered bytes of RAW under a predictor (R171). -/
def filteredRow (pred : Predictor) (s : State) : List Byte :=
  (List.range s.cfg.rowb).map (filteredByte pred s.cfg.fu s.cur.byte s.prev.byte)

/-- The scanline at IP takes the filter-type byte and the filtered bytes (R170). -/
def filterRow (ft : Byte) (pred : Predictor) (s : State) : State :=
  s.writeFstream s.ip (ft :: filteredRow pred s)

/-- FILT.NONE (R179). -/
def execFiltNone (s : State) : Host.Outcome State Fault Refusal := .next (filterRow 0 predNone s)

/-- FILT.SUB (R180). -/
def execFiltSub (s : State) : Host.Outcome State Fault Refusal := .next (filterRow 1 predSub s)

/-- FILT.UP (R181). -/
def execFiltUp (s : State) : Host.Outcome State Fault Refusal := .next (filterRow 2 predUp s)

/-- FILT.AVG (R182). -/
def execFiltAvg (s : State) : Host.Outcome State Fault Refusal := .next (filterRow 3 predAvg s)

/-- FILT.PAETH (R183). -/
def execFiltPaeth (s : State) : Host.Outcome State Fault Refusal := .next (filterRow 4 paeth s)

/-- The unsigned sum of the filtered bytes, without the filter-type byte, unbounded (R177). -/
def filterSum (pred : Predictor) (s : State) : Nat := ((filteredRow pred s).map BitVec.toNat).sum

/-- The smallest of 1, 2, 3, 4 with the minimal sum (R177). -/
def adaptiveChoice (s : State) : Byte :=
  let s1 := filterSum predSub s
  let s2 := filterSum predUp s
  let s3 := filterSum predAvg s
  let s4 := filterSum paeth s
  if s1 ≤ s2 ∧ s1 ≤ s3 ∧ s1 ≤ s4 then 1
  else if s2 ≤ s3 ∧ s2 ≤ s4 then 2
  else if s3 ≤ s4 then 3
  else 4

/-- `choose_filter()` (R174): 0 for PACK.IDX8 (R178), FIXED_FILTER in fixed mode (R176), else the adaptive choice (R177). -/
def chooseFilter (s : State) : Byte :=
  if s.cfg.colorType = 3 then 0
  else if s.cfg.filterMode = 1 then s.cfg.fixedFilter
  else adaptiveChoice s

end Sys2Proof.Machine
end

