-- ==== Sys2Proof/Machine/Unfilter.lean ====
section
/-! DEFINITION. UNFILT.NONE, SUB, UP, AVG, PAETH (40_unfilter R120 to R130): FSTREAM, CUR and PREV are read, CUR alone is written. -/

namespace Sys2Proof.Machine

/-- The recovered bytes of the scanline at IP (R120, R121). -/
def unfilteredRow (pred : Predictor) (s : State) : List Byte :=
  recoverRow pred s.cfg.fu (fun i => s.readFstream (s.ip + 1 + i)) s.prev.byte s.cfg.rowb

/-- `UNFILT(ft)`: CUR takes the recovered row (R120). -/
def unfilter (pred : Predictor) (s : State) : State := s.setCur (unfilteredRow pred s)

/-- UNFILT.NONE (R126). -/
def execUnfiltNone (s : State) : Host.Outcome State Fault Refusal := .next (unfilter predNone s)

/-- UNFILT.SUB (R127). -/
def execUnfiltSub (s : State) : Host.Outcome State Fault Refusal := .next (unfilter predSub s)

/-- UNFILT.UP (R128). -/
def execUnfiltUp (s : State) : Host.Outcome State Fault Refusal := .next (unfilter predUp s)

/-- UNFILT.AVG (R129). -/
def execUnfiltAvg (s : State) : Host.Outcome State Fault Refusal := .next (unfilter predAvg s)

/-- UNFILT.PAETH (R130). -/
def execUnfiltPaeth (s : State) : Host.Outcome State Fault Refusal := .next (unfilter paeth s)

end Sys2Proof.Machine
end

