-- ==== Sys2Proof/Machine/Unpack.lean ====
section
/-! DEFINITION. The 15 UNPACK operations (41_unpack R140 to R163): CUR, the tables and the keys are read; the 4 * WIDTH bytes of
row Y of PIX are written. -/

namespace Sys2Proof.Machine

/-- The bytes of a row of pixels, x ascending (R140). -/
def rowBytes (s : State) (pixel : Nat → Rgba) : List Byte :=
  (List.range s.cfg.width.toNat).flatMap fun x => pixelBytes (pixel x)

/-- Row Y of PIX takes the pixels (R140). -/
def unpackRow (s : State) (pixel : Nat → Rgba) : State :=
  s.writePix (pixelBase s.cfg 0 s.y.toNat) (rowBytes s pixel)

/-- The first pixel, x ascending, whose index is at or above PAL_LEN (R160, 60_exceptions R246). -/
def firstBadIndex (s : State) (index : Nat → Byte) : Option Nat :=
  (List.range s.cfg.width.toNat).find? fun x => decide (s.cfg.palLen.toNat ≤ (index x).toNat)

/-- A row of palette pixels, or PaletteIndexRange with ERR_ROW = Y and ERR_INFO = the index (R160, R162). -/
def unpackIndexed (s : State) (index : Nat → Byte) : State :=
  match firstBadIndex s index with
  | some x => s.raise .paletteIndexRange s.y ((index x).setWidth 32)
  | none => unpackRow s fun x => palPixel s (index x)

/-- The gray byte of pixel `x` at a depth below 8 (R141, R142). -/
def subByteGray (s : State) (d x : Nat) : Byte := scaleSample d (subByteSample s.cur.byte d x)

/-- UNPACK.G1 (R145). -/
def execUnpackG1 (s : State) : Host.Outcome State Fault Refusal :=
  .next (unpackRow s fun x => keyedGray s.cfg (subByteGray s 1 x))

/-- UNPACK.G2 (R146). -/
def execUnpackG2 (s : State) : Host.Outcome State Fault Refusal :=
  .next (unpackRow s fun x => keyedGray s.cfg (subByteGray s 2 x))

/-- UNPACK.G4 (R147). -/
def execUnpackG4 (s : State) : Host.Outcome State Fault Refusal :=
  .next (unpackRow s fun x => keyedGray s.cfg (subByteGray s 4 x))

/-- UNPACK.G8 (R148). -/
def execUnpackG8 (s : State) : Host.Outcome State Fault Refusal :=
  .next (unpackRow s fun x => keyedGray s.cfg (s.cur.byte x))

/-- UNPACK.G16: the gray key is not applied (R149). -/
def execUnpackG16 (s : State) : Host.Outcome State Fault Refusal :=
  .next (unpackRow s fun x => grayPixel (narrow16 s.cur.byte x) 255)

/-- UNPACK.RGB8 (R150). -/
def execUnpackRgb8 (s : State) : Host.Outcome State Fault Refusal :=
  .next (unpackRow s fun x =>
    keyedRgb s.cfg (s.cur.byte (3 * x)) (s.cur.byte (3 * x + 1)) (s.cur.byte (3 * x + 2)))

/-- UNPACK.RGB16 (R151). -/
def execUnpackRgb16 (s : State) : Host.Outcome State Fault Refusal :=
  .next (unpackRow s fun x =>
    keyedRgb s.cfg (narrow16 s.cur.byte (3 * x)) (narrow16 s.cur.byte (3 * x + 1)) (narrow16 s.cur.byte (3 * x + 2)))

/-- UNPACK.P1 (R152). -/
def execUnpackP1 (s : State) : Host.Outcome State Fault Refusal :=
  .next (unpackIndexed s (subByteSample s.cur.byte 1))

/-- UNPACK.P2 (R153). -/
def execUnpackP2 (s : State) : Host.Outcome State Fault Refusal :=
  .next (unpackIndexed s (subByteSample s.cur.byte 2))

/-- UNPACK.P4 (R154). -/
def execUnpackP4 (s : State) : Host.Outcome State Fault Refusal :=
  .next (unpackIndexed s (subByteSample s.cur.byte 4))

/-- UNPACK.P8 (R155). -/
def execUnpackP8 (s : State) : Host.Outcome State Fault Refusal :=
  .next (unpackIndexed s s.cur.byte)

/-- UNPACK.GA8 (R156). -/
def execUnpackGa8 (s : State) : Host.Outcome State Fault Refusal :=
  .next (unpackRow s fun x => grayPixel (s.cur.byte (2 * x)) (s.cur.byte (2 * x + 1)))

/-- UNPACK.GA16 (R157). -/
def execUnpackGa16 (s : State) : Host.Outcome State Fault Refusal :=
  .next (unpackRow s fun x => grayPixel (narrow16 s.cur.byte (2 * x)) (narrow16 s.cur.byte (2 * x + 1)))

/-- UNPACK.RGBA8 (R158). -/
def execUnpackRgba8 (s : State) : Host.Outcome State Fault Refusal :=
  .next (unpackRow s fun x =>
    ⟨s.cur.byte (4 * x), s.cur.byte (4 * x + 1), s.cur.byte (4 * x + 2), s.cur.byte (4 * x + 3)⟩)

/-- UNPACK.RGBA16 (R159). -/
def execUnpackRgba16 (s : State) : Host.Outcome State Fault Refusal :=
  .next (unpackRow s fun x =>
    ⟨narrow16 s.cur.byte (4 * x), narrow16 s.cur.byte (4 * x + 1), narrow16 s.cur.byte (4 * x + 2),
      narrow16 s.cur.byte (4 * x + 3)⟩)

end Sys2Proof.Machine
end

