-- ==== Sys2Proof/Machine/Dispatch.lean ====
section
/-! DEFINITION. One arm per operation, each one call of its meaning. -/

namespace Sys2Proof.Machine

def exec (i : Instr) (s : State) : Host.Outcome State Fault Refusal :=
  match i with
  | .unfiltNone => Sys2Proof.Machine.execUnfiltNone s
  | .unfiltSub => Sys2Proof.Machine.execUnfiltSub s
  | .unfiltUp => Sys2Proof.Machine.execUnfiltUp s
  | .unfiltAvg => Sys2Proof.Machine.execUnfiltAvg s
  | .unfiltPaeth => Sys2Proof.Machine.execUnfiltPaeth s
  | .filtNone => Sys2Proof.Machine.execFiltNone s
  | .filtSub => Sys2Proof.Machine.execFiltSub s
  | .filtUp => Sys2Proof.Machine.execFiltUp s
  | .filtAvg => Sys2Proof.Machine.execFiltAvg s
  | .filtPaeth => Sys2Proof.Machine.execFiltPaeth s
  | .unpackG1 => Sys2Proof.Machine.execUnpackG1 s
  | .unpackG2 => Sys2Proof.Machine.execUnpackG2 s
  | .unpackG4 => Sys2Proof.Machine.execUnpackG4 s
  | .unpackG8 => Sys2Proof.Machine.execUnpackG8 s
  | .unpackG16 => Sys2Proof.Machine.execUnpackG16 s
  | .unpackRgb8 => Sys2Proof.Machine.execUnpackRgb8 s
  | .unpackRgb16 => Sys2Proof.Machine.execUnpackRgb16 s
  | .unpackP1 => Sys2Proof.Machine.execUnpackP1 s
  | .unpackP2 => Sys2Proof.Machine.execUnpackP2 s
  | .unpackP4 => Sys2Proof.Machine.execUnpackP4 s
  | .unpackP8 => Sys2Proof.Machine.execUnpackP8 s
  | .unpackGa8 => Sys2Proof.Machine.execUnpackGa8 s
  | .unpackGa16 => Sys2Proof.Machine.execUnpackGa16 s
  | .unpackRgba8 => Sys2Proof.Machine.execUnpackRgba8 s
  | .unpackRgba16 => Sys2Proof.Machine.execUnpackRgba16 s
  | .packRgba8 => Sys2Proof.Machine.execPackRgba8 s
  | .packRgb8 => Sys2Proof.Machine.execPackRgb8 s
  | .packIdx8 bd => Sys2Proof.Machine.execPackIdx8 bd s
  | .nop => Sys2Proof.Machine.execNop s
  | .start => Sys2Proof.Machine.execStart s
  | .reset => Sys2Proof.Machine.execReset s

end Sys2Proof.Machine
end

