-- ==== Sys2Proof/Machine/RunLoop.lean ====
section
/-! DEFINITION. The step relation of a run: FETCH, DECODE_STEP, ENCODE_STEP (44_control R226 to R229). A scanline step is atomic
(R226). -/

namespace Sys2Proof.Machine

/-- FETCH (R227): the operation of the scanline at IP and the state with FT written, or the state the fault leaves. The three
tests come in stream order. -/
def fetch (s : State) : Except State (Instr × State) :=
  if s.cfg.fstreamLen ≤ s.ip then .error (s.raise .truncated s.y 0)
  else
    let ft := s.readFstream s.ip
    let t := { s with ft := ft }
    match decode (.scanline .decode) [ft] with
    | .error _ => .error (t.raise .badFilter s.y (ft.setWidth 32))
    | .ok (i, _) =>
      if s.cfg.fstreamLen < s.ip + s.cfg.slen then .error (t.raise .truncated s.y 1)
      else .ok (i, t)

/-- What follows the UNPACK of a row: nothing if it raised, else the end of the row (R228). -/
def endDecodeRow (s : State) : State :=
  if s.status = .running then s.nextRow.finishDecode else s

/-- DECODE_STEP (R228): FETCH, UNFILT, the UNPACK operation of (COLOR_TYPE, BIT_DEPTH), the end of the row. START has checked the
pair; if it names no operation the catch-all arm raises BadBitDepth (41_unpack R164), with ERR_INFO = 0 (60_exceptions R242). -/
def decodeStep (s : State) : Host.Outcome State Fault Refusal :=
  match fetch s with
  | .error t => .next t
  | .ok (i, t) =>
    andThen (exec i t) fun u =>
      match decode (.mode .decode) [u.cfg.bitDepth, u.cfg.colorType] with
      | .error _ => .next (u.raise .badBitDepth u.y 0)
      | .ok (m, _) => andThen (exec m u) fun v => .next (endDecodeRow v)

/-- ENCODE_SCANLINE after the choice (42_filter R170): FT, the scanline, the end of the row (44_control R229). START has checked
FIXED_FILTER; a filter byte above 4 raises BadFilter with ERR_INFO = 0. DESIGN CHOICE, safe since no run reaches it: the spec gives
this arm neither a kind nor an ERR_INFO, and R242 has the byte for a decode run only and 0 for START and all others; log 8. -/
def encodeScanline (s : State) : Host.Outcome State Fault Refusal :=
  let ft := chooseFilter s
  let t := { s with ft := ft }
  match decode (.scanline .encode) [ft] with
  | .error e => .next (t.raise (decodeErrorKind e) t.y 0)
  | .ok (i, _) => andThen (exec i t) fun u => .next u.nextRow.finishEncode

/-- ENCODE_STEP (R229): the PACK operation of (COLOR_TYPE, BIT_DEPTH), then, unless it raised, ENCODE_SCANLINE. -/
def encodeStep (s : State) : Host.Outcome State Fault Refusal :=
  match decode (.mode .encode) [s.cfg.bitDepth, s.cfg.colorType] with
  | .error e => .next (s.raise (decodeErrorKind e) s.y 0)
  | .ok (m, _) => andThen (exec m s) fun u => if u.status = .running then encodeScanline u else .next u

/-- The engine's turn (R226): one scanline step while Running, nothing in any other STATE. -/
def engineStep (s : State) : Host.Outcome State Fault Refusal :=
  match s.status with
  | .running =>
    match s.cfg.direction with
    | .decode => decodeStep s
    | .encode => encodeStep s
  | .idle | .done | .faulted => .next s

end Sys2Proof.Machine
end

