-- ==== Sys2Proof/Machine/HostPort.lean ====
section
/-! DEFINITION. The host's moves (44_control R220, R222, R233; 10_state R24, R50, R56) and whose turn it is. -/

namespace Sys2Proof.Machine

/-- RegRead of an RW register, indices 0 to 21 (10_state R24). -/
def readCfg (c : Cfg) : Nat → Option Nat
  | 0 => some c.width.toNat
  | 1 => some c.height.toNat
  | 2 => some c.bitDepth.toNat
  | 3 => some c.colorType.toNat
  | 4 => some c.filterMethod.toNat
  | 5 => some c.interlace.toNat
  | 6 => some c.dir.toNat
  | 7 => some c.trnsKind.toNat
  | 8 => some c.trnsGray.toNat
  | 9 => some c.trnsR.toNat
  | 10 => some c.trnsG.toNat
  | 11 => some c.trnsB.toNat
  | 12 => some c.palLen.toNat
  | 13 => some c.apalLen.toNat
  | 14 => some c.filterMode.toNat
  | 15 => some c.fixedFilterValid.toNat
  | 16 => some c.fixedFilter.toNat
  | 17 => some c.srcAbgr.toNat
  | 18 => some c.maxPalSet.toNat
  | 19 => some c.maxPal.toNat
  | 20 => some c.reduce.toNat
  | 21 => some c.fstreamLen
  | _ => none

/-- RegWrite of an RW register: the value truncated to the register's width (R233). -/
def writeCfg (c : Cfg) (index v : Nat) : Option Cfg :=
  match index with
  | 0 => some { c with width := BitVec.ofNat 32 v }
  | 1 => some { c with height := BitVec.ofNat 32 v }
  | 2 => some { c with bitDepth := BitVec.ofNat 8 v }
  | 3 => some { c with colorType := BitVec.ofNat 8 v }
  | 4 => some { c with filterMethod := BitVec.ofNat 8 v }
  | 5 => some { c with interlace := BitVec.ofNat 8 v }
  | 6 => some { c with dir := BitVec.ofNat 1 v }
  | 7 => some { c with trnsKind := BitVec.ofNat 2 v }
  | 8 => some { c with trnsGray := BitVec.ofNat 16 v }
  | 9 => some { c with trnsR := BitVec.ofNat 8 v }
  | 10 => some { c with trnsG := BitVec.ofNat 8 v }
  | 11 => some { c with trnsB := BitVec.ofNat 8 v }
  | 12 => some { c with palLen := BitVec.ofNat 9 v }
  | 13 => some { c with apalLen := BitVec.ofNat 9 v }
  | 14 => some { c with filterMode := BitVec.ofNat 1 v }
  | 15 => some { c with fixedFilterValid := BitVec.ofNat 1 v }
  | 16 => some { c with fixedFilter := BitVec.ofNat 8 v }
  | 17 => some { c with srcAbgr := BitVec.ofNat 1 v }
  | 18 => some { c with maxPalSet := BitVec.ofNat 1 v }
  | 19 => some { c with maxPal := BitVec.ofNat 32 v }
  | 20 => some { c with reduce := BitVec.ofNat 1 v }
  | 21 => some { c with fstreamLen := v }
  | _ => none

/-- RegRead of an RO register, indices 32 to 39 (10_state R24). -/
def readStatus (s : State) : Nat → Option Nat
  | 32 => some s.status.code.toNat
  | 33 => some s.err.code.toNat
  | 34 => some s.errRow.toNat
  | 35 => some s.errInfo.toNat
  | 36 => some s.y.toNat
  | 37 => some s.ip
  | 38 => some s.ft.toNat
  | 39 => some s.bitDepthEff.toNat
  | _ => none

/-- The value of a readable register. -/
def regValue (s : State) (index : Nat) : Option Nat := (readCfg s.cfg index).or (readStatus s index)

/-- RegRead (R233): an index that names nothing, and CMD, are refused (10_state R24, R50). -/
def hostRegRead (s : State) (index : Nat) : Host.Outcome State Fault Refusal :=
  match regValue s index with
  | some v => .next { s with hostData := .number v }
  | none => if index = 48 then .refused (.writeOnlyRegister index) else .refused (.noSuchRegister index)

/-- A write of a command code to CMD (R50, 30_encoding R105); a reserved code is refused (R106). -/
def hostCommand (s : State) (code : Byte) : Host.Outcome State Fault Refusal :=
  match decode .command [code] with
  | .ok (i, _) => exec i s
  | .error _ => .refused (.reservedCommand code)

/-- RegWrite (R233): no effect while Running (R222); a read-only register, and an index that names nothing, are refused. Index 48 is
CMD, 8 bits wide (10_state R50); a value above 255 written to it is cut to its low 8 bits, and those are the command code. DESIGN
CHOICE, unsafe: R233 states truncation of RW registers only; log 18. -/
def hostRegWrite (s : State) (index v : Nat) : Host.Outcome State Fault Refusal :=
  if index = 48 then hostCommand s (BitVec.ofNat 8 v)
  else
    match writeCfg s.cfg index v with
    | some c => if s.status = .running then .next s else .next { s with cfg := c }
    | none => if (readStatus s index).isSome then .refused (.readOnlyRegister index) else .refused (.noSuchRegister index)

/-- A host read of a byte of a space: while Running the output space has no settled value (70_reset_and_hazards R290), a free
value under a fresh tag. -/
def hostByteRead (s : State) (m : Memory) (isOutput : Bool) (addr : Nat) : State :=
  if s.status = .running ∧ isOutput = true then
    { s with hostData := .byte (Config.freeByte s.freeCount addr), freeCount := s.freeCount + 1 }
  else { s with hostData := .byte (m.byte addr) }

/-- One move of the host. Table accesses while Running have no effect (R222, R233); a table entry at or above its length reads as
a free value under a fresh tag (R233). -/
def hostMove (m : HostMove) (s : State) : Host.Outcome State Fault Refusal :=
  match m with
  | .regRead index => hostRegRead s index
  | .regWrite index v => hostRegWrite s index v
  | .palWrite k c =>
    if s.status = .running then .next s else .next { s with pal := s.pal.write k.toNat c }
  | .palRead k =>
    if s.status = .running then .next { s with hostData := .nothing }
    else if k.toNat < s.cfg.palLen.toNat then .next { s with hostData := .colour (palEntry s.pal k.toNat) }
    else .next { s with
      hostData := .colour (palEntry (Store.unwritten s.freeCount) k.toNat)
      freeCount := s.freeCount + 1 }
  | .apalWrite k a =>
    if s.status = .running then .next s else .next { s with apal := s.apal.write k.toNat a }
  | .apalRead k =>
    if s.status = .running then .next { s with hostData := .nothing }
    else if k.toNat < s.cfg.apalLen.toNat then .next { s with hostData := .byte (Memory.byte s.apal k.toNat) }
    else .next { s with
      hostData := .byte (Config.freeByte s.freeCount k.toNat)
      freeCount := s.freeCount + 1 }
  | .fstreamWrite addr b =>
    if s.status = .running then .refused .memoryWriteWhileRunning else .next (s.writeFstream addr [b])
  | .fstreamRead addr => .next (hostByteRead s s.fstream (s.cfg.direction = .encode) addr)
  | .pixWrite addr b =>
    if s.status = .running then .refused .memoryWriteWhileRunning else .next (s.writePix addr [b])
  | .pixRead addr => .next (hostByteRead s s.pix (s.cfg.direction = .decode) addr)
  | .cmd code => hostCommand s code
  | .yield => engineStep s
  | .await => engineStep s

/-- One turn of the whole block. The host's next move, if it has one, is made; a `yield` gives the turn to the engine; an `await`
gives it to the engine and stays while STATE = Running; with no move left every turn is the engine's (log 3). -/
def turn (s : State) : Host.Outcome State Fault Refusal :=
  match s.pending with
  | [] => engineStep s
  | .await :: rest => if s.status = .running then engineStep s else .next { s with pending := rest }
  | m :: rest => hostMove m { s with pending := rest }

end Sys2Proof.Machine
end

