-- ==== Sys2Proof/Machine/Placement.lean ====
section
/-! DEFINITION. Placing one operation so that the very next step runs it: the state an accepted START of a 1 x 1 image leaves,
with the operation's word in its place. It stands for the host's programming of the block (log 6). -/

namespace Sys2Proof.Machine

/-- A run of one 1 x 1 row about to take its only step, under a direction and a mode. -/
def placeRun (s : State) (d : BitVec 1) (bd ct : Byte) : State :=
  { s with
    pending := []
    status := .running
    err := .none
    y := 0
    ip := 0
    cfg := { s.cfg with dir := d, width := 1, height := 1, bitDepth := bd, colorType := ct } }

/-- PREV as START leaves it (44_control R225). -/
def zeroPrev (s : State) : State := { s with prev := { s.prev with bytes := List.replicate s.cfg.rowb 0 } }

/-- The scanline at IP: a filter-type byte and ROWB zero bytes, and FSTREAM_LEN covering it. -/
def placeScanline (s : State) (ft : Byte) : State :=
  let t := s.writeFstream s.ip (ft :: List.replicate s.cfg.rowb 0)
  { t with cfg := { t.cfg with fstreamLen := t.ip + t.cfg.slen } }

/-- An Indexed decode run needs a palette (44_control R224 check 6): one black entry where none is loaded. -/
def placePalette (s : State) : State :=
  if s.cfg.palLen = 0 then
    { s with pal := s.pal.write 0 ⟨0, 0, 0⟩, cfg := { s.cfg with palLen := 1 } }
  else s

/-- A pixel of zeros in PIX and the scratch palette the prelude makes of it (43_pack R196). -/
def placePixel (s : State) : State :=
  { s.writePix 0 [0, 0, 0, 0] with epal := [⟨0, 0, 0, 0⟩], rmap := [] }

/-- The state in which the next step runs the operation of a bare table word (log 6). -/
def placeWord (s : State) (nbits w : Nat) : State :=
  match firstDecoded (tableBytes nbits w) (tableContexts nbits), tableBytes nbits w with
  | some (.mode .encode, _), [bd, ct] => placePixel (zeroPrev (placeRun s 1 bd ct))
  | _, [bd, ct] => placePalette (placeScanline (zeroPrev (placeRun s 0 bd ct)) 0)
  | _, [ft] => placeScanline (zeroPrev (placeRun s 0 8 6)) ft
  | _, _ => s

end Sys2Proof.Machine
end

