-- ==== Sys2Proof/Machine/Step.lean ====
section
/-! DEFINITION. One step of the block, and the placing of one instruction for it. -/

namespace Sys2Proof.Machine

/-- One step: a host move or a scanline step (44_control R220, R226). -/
def step (s : State) : Host.Outcome State Fault Refusal := turn s

/-- `s` with the instruction of a bare table word placed where `step` takes its next one (log 6). -/
def State.withFetchWord (s : State) (nbits w : Nat) : State := placeWord s nbits w

end Sys2Proof.Machine
end

