-- ==== Sys2Proof/Machine/Script.lean ====
section
/-! DEFINITION. The notation of 30_encoding R107 as data: a run written as directives and scanlines, and the host moves it
stands for. It is how a program comes to run from `State.reset` (log 6). -/

namespace Sys2Proof.Machine

/-- A line of R107. A mode is named by its operation (R99, R101): its word gives the two register writes (R108). -/
inductive ScriptLine where
  | dir (d : Direction)
  | size (width height : Nat)
  | mode (i : Instr)
  | plte (entries : List Rgb)
  | trnsGray (key : Nat)
  | trnsRgb (r g b : Byte)
  | trnsIdx (alphas : List Byte)
  | filterAdaptive
  | filterFixed (n : Nat)
  | abgr (on : Nat)
  | maxPal (n : Nat)
  | maxPalUnset
  | reduce (on : Nat)
  | scanline (ft : Byte) (data : List Byte)
  | bytes (raw : List Byte)
  | pix (raw : List Byte)
  | reg (index value : Nat)
  | start
  | reset
  deriving DecidableEq, Repr

/-- Byte writes at ascending offsets. -/
def byteWrites (mk : Nat → Byte → HostMove) (a : Nat) : List Byte → List HostMove
  | [] => []
  | b :: bs => mk a b :: byteWrites mk (a + 1) bs

/-- PAL writes at ascending indices; PAL has 256 entries (10_state R51), and `lineMoves` gives no more. -/
def palWrites (k : Nat) : List Rgb → List HostMove
  | [] => []
  | c :: cs => .palWrite (BitVec.ofNat 8 k) c :: palWrites (k + 1) cs

/-- APAL writes at ascending indices; APAL has 256 entries (10_state R52), and `lineMoves` gives no more. -/
def apalWrites (k : Nat) : List Byte → List HostMove
  | [] => []
  | a :: as => .apalWrite (BitVec.ofNat 8 k) a :: apalWrites (k + 1) as

/-- The two register writes of a mode (R108). -/
def modeWrites (i : Instr) : List HostMove :=
  match encode i with
  | [bd, ct] => [.regWrite 2 bd.toNat, .regWrite 3 ct.toNat]
  | _ => []

/-- The bytes a line adds to FSTREAM. -/
def ScriptLine.streamBytes : ScriptLine → List Byte
  | .scanline ft data => ft :: data
  | .bytes raw => raw
  | _ => []

/-- The bytes a line adds to PIX. -/
def ScriptLine.pixBytes : ScriptLine → List Byte
  | .pix raw => raw
  | _ => []

/-- Whether a script sets FSTREAM_LEN itself (R107). -/
def setsLength (ls : List ScriptLine) : Bool :=
  ls.any fun l =>
    match l with
    | .reg 21 _ => true
    | _ => false

/-- The host moves of one line whose stream and PIX bytes begin at `f` and `p`; `auto` says that FSTREAM_LEN follows the bytes
placed (R107). A `start` is followed by waiting for the end of the run. Of a table of more
than 256 entries the first 256 are loaded: for APAL as 10_state R35 says, with APAL_LEN = 256; for PAL, on which R107 is silent, as a
DESIGN CHOICE, unsafe, with the full count written to PAL_LEN, so that an Indexed decode START faults up to 511 and sees the count cut
to 9 bits beyond (log 20). -/
def lineMoves (auto : Bool) (f p : Nat) (l : ScriptLine) : List HostMove :=
  let placed := byteWrites .fstreamWrite f l.streamBytes
  let lengthWrite := if auto && !l.streamBytes.isEmpty then [HostMove.regWrite 21 (f + l.streamBytes.length)] else []
  match l with
  | .dir d => [.regWrite 6 (match d with | .decode => 0 | .encode => 1)]
  | .size w h => [.regWrite 0 w, .regWrite 1 h]
  | .mode i => modeWrites i
  | .plte es => palWrites 0 (es.take 256) ++ [.regWrite 12 es.length]
  | .trnsGray k => [.regWrite 7 1, .regWrite 8 k]
  | .trnsRgb r g b => [.regWrite 7 2, .regWrite 9 r.toNat, .regWrite 10 g.toNat, .regWrite 11 b.toNat]
  | .trnsIdx as => .regWrite 7 3 :: apalWrites 0 (as.take 256) ++ [.regWrite 13 (as.take 256).length]
  | .filterAdaptive => [.regWrite 14 0]
  | .filterFixed n => [.regWrite 14 1, .regWrite 15 1, .regWrite 16 n]
  | .abgr v => [.regWrite 17 v]
  | .maxPal n => [.regWrite 18 1, .regWrite 19 n]
  | .maxPalUnset => [.regWrite 18 0]
  | .reduce v => [.regWrite 20 v]
  | .scanline _ _ => placed ++ lengthWrite
  | .bytes _ => placed ++ lengthWrite
  | .pix raw => byteWrites .pixWrite p raw
  | .reg index v => [.regWrite index v]
  | .start => [.cmd 1, .await]
  | .reset => [.cmd 2]

/-- The host moves of a script: its lines' stream and PIX bytes concatenate from offset 0 (R107). -/
def scriptMoves (auto : Bool) (f p : Nat) : List ScriptLine → List HostMove
  | [] => []
  | l :: ls =>
    lineMoves auto f p l ++ scriptMoves auto (f + l.streamBytes.length) (p + l.pixBytes.length) ls

/-- A script as the host's coming moves. -/
def State.withScript (s : State) (ls : List ScriptLine) : State :=
  { s with pending := scriptMoves (!setsLength ls) 0 0 ls }

end Sys2Proof.Machine
end

