-- ==== Sys2Proof/Machine/Stripe.lean ====
section
/-! DEFINITION. The optional row-stripe arrangement (60_exceptions R263 to R270), decode direction and mode RGBA8 only (R265). It
is no part of `step`: R268 says that it changes nothing a host can observe. How the stripes are dealt to `N_WORKERS` workers is not
represented, since no result depends on it (R270). -/

namespace Sys2Proof.Machine

/-- The arrangement is for the decode direction in mode RGBA8 only (R265). -/
def stripesApply (c : Cfg) : Bool := decide (c.direction = .decode ∧ c.colorType = 6 ∧ c.bitDepth = 8)

/-- A run of consecutive rows (R264). -/
structure Stripe where
  first : Nat
  rows  : Nat
  deriving DecidableEq, Repr

/-- Whether a stripe may begin at row `y`: its filter-type byte is within FSTREAM and is None or Sub (R266). -/
def mayBeginStripe (s : State) (y : Nat) : Bool :=
  decide (y * s.cfg.slen < s.cfg.fstreamLen) && decide ((s.readFstream (y * s.cfg.slen)).toNat ≤ 1)

/-- The stripes, in order, cover rows `y` to HEIGHT - 1 without overlap, and each but the one at row 0 begins where it may
(R264). -/
def stripesCover (s : State) (y : Nat) : List Stripe → Bool
  | [] => decide (y = s.cfg.height.toNat)
  | p :: ps =>
    decide (p.first = y) && decide (0 < p.rows) && (decide (y = 0) || mayBeginStripe s y) &&
      stripesCover s (y + p.rows) ps

/-- A partition the driver may form: of all rows, and in the one mode that has stripes (R264, R265). -/
def legalPartition (s : State) (ps : List Stripe) : Bool := stripesApply s.cfg && stripesCover s 0 ps

/-- At most `n` scanline steps, none after the run has ended. -/
def runRows : Nat → State → Host.Outcome State Fault Refusal
  | 0, s => .next s
  | n + 1, s => if s.status = .running then andThen (engineStep s) (runRows n) else .next s

/-- A worker at the start of its stripe: its own Y, IP and an all-zero PREV (R267). -/
def workerStart (s : State) (p : Stripe) : State :=
  { s with
    y := BitVec.ofNat 32 p.first
    ip := p.first * s.cfg.slen
    prev := { s.prev with bytes := List.replicate s.cfg.rowb 0 } }

/-- The state after at most `n` scanline steps; every step answers one (70_reset_and_hazards R297). -/
def rowsEnd (n : Nat) (s : State) : State :=
  match runRows n s with
  | .next t => t
  | .fault _ => s
  | .refused _ => s

/-- A worker after its stripe (R267); in the mode that has stripes a scanline step is DECODE_STEP. -/
def workerEnd (s : State) (p : Stripe) : State := rowsEnd p.rows (workerStart s p)

/-- The merge's copy of a stripe's rows "into the global RGBA output at their row offsets" (R267, R268). -/
def copyRows (s : State) (dst src : Memory) (p : Stripe) : Memory :=
  let a := pixelBase s.cfg 0 p.first
  dst.writeList a ((List.range (p.rows * s.cfg.width.toNat * 4)).map fun k => src.byte (a + k))

/-- PIX after all stripes have been copied. -/
def mergedPix (s : State) (ps : List Stripe) : Memory :=
  ps.foldl (fun dst p => copyRows s dst (workerEnd s p).pix p) s.pix

/-- The faulted worker with the lowest ERR_ROW (R269). -/
def lowestFault (best : Option State) : List State → Option State
  | [] => best
  | t :: ts =>
    if t.status = .faulted then
      match best with
      | none => lowestFault (some t) ts
      | some b => if t.errRow.toNat < b.errRow.toNat then lowestFault (some t) ts else lowestFault (some b) ts
    else lowestFault best ts

/-- The last worker of a partition. -/
def lastWorker (s : State) (ps : List Stripe) : State :=
  match ps.getLast? with
  | some p => workerEnd s p
  | none => s

/-- The run under a partition: the lowest fault if a worker faulted (R269), else Done after the merge (R268). -/
def stripedRun (s : State) (ps : List Stripe) : State :=
  match lowestFault none (ps.map (workerEnd s)) with
  | some t => t
  | none => { lastWorker s ps with pix := mergedPix s ps }

/-- The whole run from row 0: under the partition in the mode that has stripes, by the one engine in every other mode and in the
encode direction (R265). -/
def stripeRun (s : State) (ps : List Stripe) : State :=
  if stripesApply s.cfg then stripedRun s ps else rowsEnd s.cfg.height.toNat s

end Sys2Proof.Machine
end

