-- ==== Sys2Proof/Safety.lean ====
section
/-! DEFINITION. What counts as a safe state and a completed run, in the terms the statements use. -/

namespace Sys2Proof.Machine

/-- The run has completed (60_exceptions R254, 44_control R230). -/
def Completed (s : State) : Prop := s.status = .done

/-- Both spaces and both table files are in canonical form. -/
def MemoryCanonical (s : State) : Prop :=
  Memory.wf s.fstream ∧ Memory.wf s.pix ∧ s.pal.wf ∧ Store.wf s.apal

/-- ERR holds a kind exactly while STATE = Faulted (10_state R42, R43). -/
def FaultRecorded (s : State) : Prop := s.status = .faulted ↔ s.err ≠ .none

/-- What holds at every scanline boundary of a run: the configuration passes START's checks (44_control R222, R224), IP = Y * SLEN
(10_state R49), Y < HEIGHT (44_control R228), and PREV has ROWB bytes (10_state R22). -/
def RunConsistent (s : State) : Prop :=
  s.status = .running →
    startCheck s.cfg = none ∧ s.ip = s.y.toNat * s.cfg.slen ∧ s.y.toNat < s.cfg.height.toNat ∧
      s.prev.bytes.length = s.cfg.rowb

/-- While an Indexed encode run is in progress every pixel of the image has a representative below 256 (43_pack R204, R205). -/
def PaletteCovers (s : State) : Prop :=
  s.status = .running → s.cfg.direction = .encode → s.cfg.colorType = 3 →
    ∀ x y, x < s.cfg.width.toNat → y < s.cfg.height.toNat →
      ∃ k, indexFor s.epal s.rmap (readPixel s x y) = some k ∧ k < 256

/-- The tags in use are below the next one, so that a fresh tag names no contents in use (the model's own fields, log 2). -/
def TagsUsed (s : State) : Prop :=
  s.fstream.tag < s.freeCount ∧ s.pix.tag < s.freeCount ∧ s.pal.tag < s.freeCount ∧ s.apal.tag < s.freeCount ∧
    s.cur.tag < s.freeCount ∧ s.prev.tag < s.freeCount

/-! ### Terms of the result statements -/

/-- In context `c` the word `w` is the encoding of `i`, both ways (30_encoding). -/
def HasWord (c : Context) (w : List Byte) (i : Instr) : Prop :=
  i.context = c ∧ encode i = w ∧ decode c w = .ok (i, [])

/-- The host's next move writes the command code to CMD, by name or as register 48 (10_state R50). -/
def CommandNext (s : State) (code : Byte) : Prop :=
  ∃ rest v, s.pending = .cmd code :: rest ∨ (s.pending = .regWrite 48 v :: rest ∧ v % 256 = code.toNat)

/-- The pixel PIX holds at (x, y), read in the order R, G, B, A (20_memory R62). -/
def pixelAt (s : State) (x y : Nat) : Rgba :=
  ⟨s.readPix (pixelBase s.cfg x y), s.readPix (pixelBase s.cfg x y + 1), s.readPix (pixelBase s.cfg x y + 2),
    s.readPix (pixelBase s.cfg x y + 3)⟩

/-- From `s` to `t` row Y of PIX takes the pixels, every byte of PIX outside the row's 4 * WIDTH bytes reads as before, and nothing
else of the state changes (41_unpack R140). -/
def PixRowWritten (s t : State) (pixel : Nat → Rgba) : Prop :=
  t = { s with pix := t.pix } ∧
  (∀ x, x < s.cfg.width.toNat → pixelAt t x s.y.toNat = pixel x) ∧
  ∀ a, a < pixelBase s.cfg 0 s.y.toNat ∨ pixelBase s.cfg 0 s.y.toNat + 4 * s.cfg.width.toNat ≤ a →
    t.readPix a = s.readPix a

/-- From `s` to `t` CUR takes ROWB bytes, byte `i` being `value i` of the finished row, and nothing else of the state changes
(40_unfilter R120). -/
def RowRecovered (s t : State) (value : (Nat → Byte) → Nat → Byte) : Prop :=
  t = { s with cur := t.cur } ∧
  t.cur.bytes.length = s.cfg.rowb ∧
  ∀ i, i < s.cfg.rowb → t.cur.byte i = value t.cur.byte i

/-- From `s` to `t` the SLEN bytes of FSTREAM at IP take a filter-type byte and the row's filtered bytes, every byte of FSTREAM
outside them reads as before, and nothing else of the state changes (42_filter R170). -/
def ScanlineWritten (s t : State) (ft : Byte) (value : Nat → Byte) : Prop :=
  t = { s with fstream := t.fstream } ∧
  t.readFstream s.ip = ft ∧
  (∀ i, i < s.cfg.rowb → t.readFstream (s.ip + 1 + i) = value i) ∧
  ∀ a, a < s.ip ∨ s.ip + s.cfg.slen ≤ a → t.readFstream a = s.readFstream a

/-- From `s` to `t` RAW takes the bytes and nothing else of the state changes (43_pack R191 to R193). -/
def RawFilled (s t : State) (n : Nat) (value : Nat → Byte) : Prop :=
  t = { s with cur := t.cur } ∧
  t.cur.bytes.length = n ∧
  ∀ i, i < n → t.cur.byte i = value i

/-- The eleven checks of START as the table of 44_control R224 gives them, in its order: the condition that fails, and the
fault. -/
def startTable (c : Cfg) : List (Bool × ErrKind) :=
  let ct := c.colorType.toNat
  let bd := c.bitDepth.toNat
  let decoding := c.dir == 0
  let encoding := c.dir == 1
  let dim := fun n : Nat => n == 0 || 2 ^ 31 ≤ n
  [ (c.filterMethod != 0, .badHeader),
    (c.interlace != 0, .unsupportedInterlace),
    (dim c.width.toNat || dim c.height.toNat, .badHeader),
    (decoding && !([0, 2, 3, 4, 6].contains ct), .badHeader),
    (decoding && !([(0, 1), (0, 2), (0, 4), (0, 8), (0, 16), (2, 8), (2, 16), (3, 1), (3, 2), (3, 4), (3, 8),
      (4, 8), (4, 16), (6, 8), (6, 16)].contains (ct, bd)), .badBitDepth),
    (decoding && ct == 3 && c.palLen == 0, .missingPalette),
    (decoding && ct == 3 && decide (256 < c.palLen.toNat), .badPalette),
    (decoding && (c.trnsKind == 1 && ct != 0 || c.trnsKind == 2 && ct != 2 || c.trnsKind == 3 && ct != 3 ||
      c.trnsKind == 3 && decide (256 < c.apalLen.toNat)), .badTransparency),
    (encoding && !([(6, 8), (2, 8), (3, 0), (3, 1), (3, 2), (3, 4), (3, 8)].contains (ct, bd)), .unsupportedMode),
    (encoding && (ct == 6 || ct == 2) && c.filterMode == 1 && (c.fixedFilterValid == 0 || decide (4 < c.fixedFilter.toNat)),
      .badFilter),
    (encoding && ct == 3 && c.maxPalSet == 1 && c.maxPal == 0, .badPalette) ]

/-- The fault of the first failing check. -/
def firstFailing : List (Bool × ErrKind) → Option ErrKind
  | [] => none
  | (failed, k) :: rest => if failed then some k else firstFailing rest

/-- The widths of the RW registers, indices 0 to 20 of 10_state R24; index 21 (FSTREAM_LEN) is unbounded. -/
def registerWidths : List Nat := [32, 32, 8, 8, 8, 8, 1, 2, 16, 8, 8, 8, 9, 9, 1, 1, 8, 1, 1, 32, 1]

/-- The state in which START is accepted or turned away: Idle or Done (44_control R223). -/
def MayStart (s : State) : Prop := s.status = .idle ∨ s.status = .done

end Sys2Proof.Machine
end

