-- ==== Sys2Proof/Certificates/Slice0/Obligations.lean ====
section
/-! DEFINITION. The statements, from the numbered rules of spec/. Each says which rule it formalises. -/

open Sys2Proof Sys2Proof.Machine

/-! ### Encodings (30_encoding) -/

/-- Decoder and encoder agree: every well-formed operation is read back from its word, whatever bytes follow, in its own context, and
what the decoder accepts in a context is exactly the word of a well-formed operation of that context, so words are unambiguous and
nothing else is accepted (R92, R96, R99 to R101, R105, R106). -/
def Obligations.DecodeEncodeAgree : Prop :=
  (∀ (i : Instr) (rest : List Byte), i.wellFormed = true → decode i.context (encode i ++ rest) = .ok (i, rest)) ∧
  ∀ (c : Context) (bytes rest : List Byte) (i : Instr), decode c bytes = .ok (i, rest) →
    i.wellFormed = true ∧ i.context = c ∧ bytes = encode i ++ rest

/-- A few words of the tables (R92, R99, R101, R105). -/
def Obligations.SpecWordsDecode : Prop :=
  decode (.scanline .decode) [4] = .ok (.unfiltPaeth, []) ∧
  decode (.scanline .encode) [3] = .ok (.filtAvg, []) ∧
  decode (.mode .decode) [0x10, 0x02] = .ok (.unpackRgb16, []) ∧
  decode (.mode .decode) [0x02, 0x03] = .ok (.unpackP2, []) ∧
  decode (.mode .encode) [0x08, 0x06] = .ok (.packRgba8, []) ∧
  decode (.mode .encode) [0x04, 0x03] = .ok (.packIdx8 4, []) ∧
  decode .command [2] = .ok (.reset, [])

/-- Reserved words are refused by name: FTYPE above 4 in either direction, command codes above 2, colour types the format does not
have, legal colour types with a depth outside their set, and encode pairs without a packer (R96, R100, R101, R106). -/
def Obligations.ReservedWordsRefused : Prop :=
  (∀ (d : Direction) (ft : Byte) (rest : List Byte), 4 < ft.toNat →
    decode (.scanline d) (ft :: rest) = .error (.badFilter ft)) ∧
  (∀ (code : Byte) (rest : List Byte), 2 < code.toNat → decode .command (code :: rest) = .error (.reservedCommand code)) ∧
  (∀ (bd ct : Byte) (rest : List Byte), ct.toNat ∉ [0, 2, 3, 4, 6] →
    decode (.mode .decode) (bd :: ct :: rest) = .error (.unknownColorType ct)) ∧
  (∀ (bd ct : Byte) (rest : List Byte), ct.toNat ∈ [0, 2, 3, 4, 6] →
    (ct.toNat, bd.toNat) ∉ [(0, 1), (0, 2), (0, 4), (0, 8), (0, 16), (2, 8), (2, 16), (3, 1), (3, 2), (3, 4), (3, 8),
      (4, 8), (4, 16), (6, 8), (6, 16)] →
    decode (.mode .decode) (bd :: ct :: rest) = .error (.badBitDepth bd ct)) ∧
  (∀ (bd ct : Byte) (rest : List Byte),
    (ct.toNat, bd.toNat) ∉ [(6, 8), (2, 8), (3, 0), (3, 1), (3, 2), (3, 4), (3, 8)] →
    decode (.mode .encode) (bd :: ct :: rest) = .error (.unsupportedMode bd ct))

/-! ### A step runs the decoded operations (44_control R226, R228, R229) -/

/-- With no host move pending and a run in the decode direction, a step whose scanline is complete and whose filter-type byte and
mode word decode runs exactly those two operations, UNFILT after FT has been written, then the end of the row (R228). A mode word that
names no operation raises BadBitDepth after the UNFILT (41_unpack R164; no run reaches it, log 8).
Over `step`, whose host moves are the model's form (log 3). -/
def Obligations.StepRunsDecodeRow : Prop :=
  ∀ (s : State) (i : Instr), s.pending = [] → s.status = .running → s.cfg.direction = .decode →
    s.ip + s.cfg.slen ≤ s.cfg.fstreamLen →
    decode (.scanline .decode) [s.readFstream s.ip] = .ok (i, []) →
    (∀ m, decode (.mode .decode) [s.cfg.bitDepth, s.cfg.colorType] = .ok (m, []) →
      step s = andThen (exec i { s with ft := s.readFstream s.ip }) fun u =>
        andThen (exec m u) fun v => .next (endDecodeRow v)) ∧
    (∀ e, decode (.mode .decode) [s.cfg.bitDepth, s.cfg.colorType] = .error e →
      step s = andThen (exec i { s with ft := s.readFstream s.ip }) fun u => .next (u.raise .badBitDepth s.y 0))

/-- With no host move pending and a run in the encode direction, a step runs the PACK operation of the mode word. If that raised, the
step ends there and no scanline is written; otherwise it runs the FILT operation of the chosen filter after FT has been written, then
the end of the row (R229, R170).
Over `step`, whose host moves are the model's form (log 3). -/
def Obligations.StepRunsEncodeRow : Prop :=
  ∀ (s u : State) (m : Instr), s.pending = [] → s.status = .running → s.cfg.direction = .encode →
    decode (.mode .encode) [s.cfg.bitDepth, s.cfg.colorType] = .ok (m, []) →
    exec m s = .next u →
    (u.status ≠ .running → step s = .next u) ∧
    (∀ i, u.status = .running → decode (.scanline .encode) [chooseFilter u] = .ok (i, []) →
      step s = andThen (exec i { u with ft := chooseFilter u }) fun v => .next v.nextRow.finishEncode)

/-- A command code written to CMD, by name or as register 48, runs the command it decodes to (R105; 10_state R50).
Over `step`, whose host moves are the model's form (log 3). -/
def Obligations.StepRunsCommand : Prop :=
  ∀ (s : State) (rest : List HostMove) (code : Byte) (i : Instr), decode .command [code] = .ok (i, []) →
    (s.pending = .cmd code :: rest → step s = exec i { s with pending := rest }) ∧
    (s.pending = .regWrite 48 code.toNat :: rest → step s = exec i { s with pending := rest })

/-- Outside Running a step with no host move pending changes nothing: the engine takes no step in any other STATE (R226).
Over `step`, whose host moves are the model's form (log 3). -/
def Obligations.EngineIdleOutsideRunning : Prop :=
  ∀ s : State, s.pending = [] → s.status ≠ .running → step s = .next s

/-! ### Geometry (00_scope R10, R11; 43_pack R190) -/

/-- The table of R11: SPP, BPP, FU and ROWB of each legal pair in the decode direction. -/
def Obligations.DecodeGeometryTable : Prop :=
  ∀ (c : Cfg) (w : Nat), c.direction = .decode → c.width.toNat = w →
    ∀ e ∈ ([(0, 1, 1, 1, 1, (w + 7) / 8), (0, 2, 1, 2, 1, (2 * w + 7) / 8), (0, 4, 1, 4, 1, (4 * w + 7) / 8),
        (0, 8, 1, 8, 1, w), (0, 16, 1, 16, 2, 2 * w), (2, 8, 3, 24, 3, 3 * w), (2, 16, 3, 48, 6, 6 * w),
        (3, 1, 1, 1, 1, (w + 7) / 8), (3, 2, 1, 2, 1, (2 * w + 7) / 8), (3, 4, 1, 4, 1, (4 * w + 7) / 8),
        (3, 8, 1, 8, 1, w), (4, 8, 2, 16, 2, 2 * w), (4, 16, 2, 32, 4, 4 * w), (6, 8, 4, 32, 4, 4 * w),
        (6, 16, 4, 64, 8, 8 * w)] : List (Nat × Nat × Nat × Nat × Nat × Nat)),
      c.colorType.toNat = e.1 → c.bitDepth.toNat = e.2.1 →
      c.spp = e.2.2.1 ∧ c.bpp = e.2.2.2.1 ∧ c.fu = e.2.2.2.2.1 ∧ c.rowb = e.2.2.2.2.2

/-- The table of R190: the encode geometry takes the bit depth as 8 whatever BIT_DEPTH holds. -/
def Obligations.EncodeGeometryTable : Prop :=
  ∀ (c : Cfg) (w : Nat), c.direction = .encode → c.width.toNat = w →
    ∀ e ∈ ([(6, 4, 32, 4, 4 * w), (2, 3, 24, 3, 3 * w), (3, 1, 8, 1, w)] : List (Nat × Nat × Nat × Nat × Nat)),
      c.colorType.toNat = e.1 →
      c.spp = e.2.1 ∧ c.bpp = e.2.2.1 ∧ c.rowb = e.2.2.2.2 ∧ c.fu = e.2.2.2.1 ∧ c.slen = 1 + e.2.2.2.2

/-- Under every configuration START accepts, FU is between 1 and 8 (40_unfilter R121). -/
def Obligations.FilterUnitBounds : Prop :=
  ∀ c : Cfg, startCheck c = none → 1 ≤ c.fu ∧ c.fu ≤ 8

/-! ### Filter inversion (40_unfilter) -/

/-- `paeth(a, b, c)` is a, b or c, at the least distance from a + b - c, and on a tie the earlier of a, b, c (R124, R125). -/
def Obligations.PaethNearestEarliest : Prop :=
  (∀ a b c : Byte,
    let p : Int := (a.toNat : Int) + b.toNat - c.toNat
    let dist := fun v : Byte => |p - (v.toNat : Int)|
    let r := paeth a b c
    (r = a ∨ r = b ∨ r = c) ∧
    dist r ≤ dist a ∧ dist r ≤ dist b ∧ dist r ≤ dist c ∧
    (dist a = dist r → r = a) ∧
    (dist a ≠ dist r → dist b = dist r → r = b)) ∧
  (∀ a : Byte, paeth a 0 0 = a) ∧ (∀ b : Byte, paeth 0 b 0 = b) ∧ ∀ a : Byte, paeth a a a = a

/-- The five UNFILT operations complete in every state and recover the row by their formulas over recovered neighbours; CUR alone
changes (R120, R126 to R130). The left neighbour is that of the finished row: FU is at least 1 wherever a run can be (R121). -/
def Obligations.UnfilterRecovers : Prop :=
  ∀ s : State, 0 < s.cfg.fu →
    let f := fun i => s.readFstream (s.ip + 1 + i)
    let left := fun (row : Nat → Byte) (i : Nat) => if s.cfg.fu ≤ i then row (i - s.cfg.fu) else 0
    let up := s.prev.byte
    let upLeft := fun i => if s.cfg.fu ≤ i then s.prev.byte (i - s.cfg.fu) else 0
    (HasWord (.scanline .decode) [0] .unfiltNone ∧ HasWord (.scanline .decode) [1] .unfiltSub ∧
      HasWord (.scanline .decode) [2] .unfiltUp ∧ HasWord (.scanline .decode) [3] .unfiltAvg ∧
      HasWord (.scanline .decode) [4] .unfiltPaeth) ∧
    (∃ t, exec .unfiltNone s = .next t ∧ RowRecovered s t fun _ i => f i) ∧
    (∃ t, exec .unfiltSub s = .next t ∧ RowRecovered s t fun row i => f i + left row i) ∧
    (∃ t, exec .unfiltUp s = .next t ∧ RowRecovered s t fun _ i => f i + up i) ∧
    (∃ t, exec .unfiltAvg s = .next t ∧
      RowRecovered s t fun row i => f i + BitVec.ofNat 8 (((left row i).toNat + (up i).toNat) / 2)) ∧
    (∃ t, exec .unfiltPaeth s = .next t ∧ RowRecovered s t fun row i => f i + paeth (left row i) (up i) (upLeft i))

/-! ### Unpacking (41_unpack) -/

/-- G1, G2 and G4 complete in every state: samples most significant bits first, scaled by 255, 85 and 17, replicated, under the gray
key compared with the output byte (R140 to R142, R144 to R147, R163). -/
def Obligations.UnpackSubByteGray : Prop :=
  ∀ s : State,
    let alpha := fun g : Nat => if s.cfg.trnsKind = 1 ∧ s.cfg.trnsGray.toNat = g then (0 : Byte) else 255
    let gray := fun g : Nat => (⟨BitVec.ofNat 8 g, BitVec.ofNat 8 g, BitVec.ofNat 8 g, alpha g⟩ : Rgba)
    (HasWord (.mode .decode) [1, 0] .unpackG1 ∧ HasWord (.mode .decode) [2, 0] .unpackG2 ∧
      HasWord (.mode .decode) [4, 0] .unpackG4) ∧
    (∃ t, exec .unpackG1 s = .next t ∧
      PixRowWritten s t fun x => gray (if (s.cur.byte (x / 8)).getLsbD (7 - x % 8) then 255 else 0)) ∧
    (∃ t, exec .unpackG2 s = .next t ∧
      PixRowWritten s t fun x => gray (((s.cur.byte (x / 4)).extractLsb' (6 - 2 * (x % 4)) 2).toNat * 85)) ∧
    (∃ t, exec .unpackG4 s = .next t ∧
      PixRowWritten s t fun x => gray (((s.cur.byte (x / 2)).extractLsb' (4 - 4 * (x % 2)) 4).toNat * 17))

/-- G8 applies the gray key to the sample; G16 takes the high byte and never applies it (R148, R149). -/
def Obligations.UnpackByteGray : Prop :=
  ∀ s : State,
    (HasWord (.mode .decode) [8, 0] .unpackG8 ∧ HasWord (.mode .decode) [16, 0] .unpackG16) ∧
    (∃ t, exec .unpackG8 s = .next t ∧ PixRowWritten s t fun x =>
      let g := s.cur.byte x
      ⟨g, g, g, if s.cfg.trnsKind = 1 ∧ s.cfg.trnsGray.toNat = g.toNat then 0 else 255⟩) ∧
    (∃ t, exec .unpackG16 s = .next t ∧ PixRowWritten s t fun x =>
      let g := s.cur.byte (2 * x)
      ⟨g, g, g, 255⟩)

/-- RGB8 copies the three samples, RGB16 their high bytes; the RGB key is compared with the output bytes (R150, R151, R161). -/
def Obligations.UnpackRgbKeyed : Prop :=
  ∀ s : State,
    let keyed := fun r g b : Byte =>
      (⟨r, g, b, if s.cfg.trnsKind = 2 ∧ r = s.cfg.trnsR ∧ g = s.cfg.trnsG ∧ b = s.cfg.trnsB then 0 else 255⟩ : Rgba)
    (HasWord (.mode .decode) [8, 2] .unpackRgb8 ∧ HasWord (.mode .decode) [16, 2] .unpackRgb16) ∧
    (∃ t, exec .unpackRgb8 s = .next t ∧ PixRowWritten s t fun x =>
      keyed (s.cur.byte (3 * x)) (s.cur.byte (3 * x + 1)) (s.cur.byte (3 * x + 2))) ∧
    (∃ t, exec .unpackRgb16 s = .next t ∧ PixRowWritten s t fun x =>
      keyed (s.cur.byte (6 * x)) (s.cur.byte (6 * x + 2)) (s.cur.byte (6 * x + 4)))

/-- GA8, GA16, RGBA8 and RGBA16 copy the samples, or their high bytes, with no key (R156 to R159). -/
def Obligations.UnpackAlphaModes : Prop :=
  ∀ s : State,
    let b := s.cur.byte
    (HasWord (.mode .decode) [8, 4] .unpackGa8 ∧ HasWord (.mode .decode) [16, 4] .unpackGa16 ∧
      HasWord (.mode .decode) [8, 6] .unpackRgba8 ∧ HasWord (.mode .decode) [16, 6] .unpackRgba16) ∧
    (∃ t, exec .unpackGa8 s = .next t ∧ PixRowWritten s t fun x =>
      ⟨b (2 * x), b (2 * x), b (2 * x), b (2 * x + 1)⟩) ∧
    (∃ t, exec .unpackGa16 s = .next t ∧ PixRowWritten s t fun x =>
      ⟨b (4 * x), b (4 * x), b (4 * x), b (4 * x + 2)⟩) ∧
    (∃ t, exec .unpackRgba8 s = .next t ∧ PixRowWritten s t fun x =>
      ⟨b (4 * x), b (4 * x + 1), b (4 * x + 2), b (4 * x + 3)⟩) ∧
    (∃ t, exec .unpackRgba16 s = .next t ∧ PixRowWritten s t fun x =>
      ⟨b (8 * x), b (8 * x + 2), b (8 * x + 4), b (8 * x + 6)⟩)

/-- P1, P2, P4 and P8 complete where every index of the row is below PAL_LEN: the palette's colour, with the alpha palette's entry
where TRNS_KIND = 3 and the index is below APAL_LEN, else 255. Otherwise they raise PaletteIndexRange with ERR_ROW = Y and ERR_INFO =
the index at the first pixel, x ascending, whose index is at or above PAL_LEN (R152 to R155, R160, R162; 60_exceptions R246). -/
def Obligations.UnpackPalette : Prop :=
  ∀ s : State,
    let b := s.cur.byte
    let colour := fun idx : Nat =>
      let e := palEntry s.pal idx
      (⟨e.r, e.g, e.b, if s.cfg.trnsKind = 3 ∧ idx < s.cfg.apalLen.toNat then Memory.byte s.apal idx else 255⟩ : Rgba)
    ∀ e ∈ ([(.unpackP1, 1, fun x => if (b (x / 8)).getLsbD (7 - x % 8) then 1 else 0),
        (.unpackP2, 2, fun x => ((b (x / 4)).extractLsb' (6 - 2 * (x % 4)) 2).toNat),
        (.unpackP4, 4, fun x => ((b (x / 2)).extractLsb' (4 - 4 * (x % 2)) 4).toNat),
        (.unpackP8, 8, fun x => (b x).toNat)] : List (Instr × Byte × (Nat → Nat))),
      let index := e.2.2
      HasWord (.mode .decode) [e.2.1, 3] e.1 ∧
      ((∀ x, x < s.cfg.width.toNat → index x < s.cfg.palLen.toNat) →
        ∃ t, exec e.1 s = .next t ∧ PixRowWritten s t fun x => colour (index x)) ∧
      ∀ x, x < s.cfg.width.toNat → s.cfg.palLen.toNat ≤ index x → (∀ x', x' < x → index x' < s.cfg.palLen.toNat) →
        exec e.1 s = .next (s.raise .paletteIndexRange s.y (BitVec.ofNat 32 (index x)))

/-! ### Forward filtering (42_filter) -/

/-- The five FILT operations complete in every state and write their filter-type byte and the raw bytes less the predictor of raw
neighbours; FSTREAM alone changes, and only the scanline (R170, R171, R179 to R183). -/
def Obligations.FilterWritesScanline : Prop :=
  ∀ s : State,
    let raw := s.cur.byte
    let a := fun i => if s.cfg.fu ≤ i then raw (i - s.cfg.fu) else 0
    let b := s.prev.byte
    let c := fun i => if s.cfg.fu ≤ i then b (i - s.cfg.fu) else 0
    (HasWord (.scanline .encode) [0] .filtNone ∧ HasWord (.scanline .encode) [1] .filtSub ∧
      HasWord (.scanline .encode) [2] .filtUp ∧ HasWord (.scanline .encode) [3] .filtAvg ∧
      HasWord (.scanline .encode) [4] .filtPaeth) ∧
    (∃ t, exec .filtNone s = .next t ∧ ScanlineWritten s t 0 raw) ∧
    (∃ t, exec .filtSub s = .next t ∧ ScanlineWritten s t 1 fun i => raw i - a i) ∧
    (∃ t, exec .filtUp s = .next t ∧ ScanlineWritten s t 2 fun i => raw i - b i) ∧
    (∃ t, exec .filtAvg s = .next t ∧
      ScanlineWritten s t 3 fun i => raw i - BitVec.ofNat 8 (((a i).toNat + (b i).toNat) / 2)) ∧
    (∃ t, exec .filtPaeth s = .next t ∧ ScanlineWritten s t 4 fun i => raw i - paeth (a i) (b i) (c i))

/-- Inverting a filtered row gives the row back, for every filter type, row and previous row, over 8-bit wrap-around (40_unfilter
R133): FILT writes the scanline, UNFILT of the same type recovers RAW from it. -/
def Obligations.UnfilterInvertsFilter : Prop :=
  ∀ e ∈ ([(.filtNone, .unfiltNone), (.filtSub, .unfiltSub), (.filtUp, .unfiltUp), (.filtAvg, .unfiltAvg),
      (.filtPaeth, .unfiltPaeth)] : List (Instr × Instr)),
    ∀ (s : State) (scratch : RowBuf), 0 < s.cfg.fu → s.cur.bytes.length = s.cfg.rowb →
      ∃ t u, exec e.1 s = .next t ∧ exec e.2 { t with cur := scratch } = .next u ∧ u.cur.bytes = s.cur.bytes

/-- The choice of a filter: 0 for Indexed output, FIXED_FILTER in fixed mode, else a filter type in 1 to 4 whose sum of unsigned
filtered bytes is minimal, the lowest among equals, and never PAETH where the previous row is all zero (R174, R177). -/
def Obligations.FilterChoice : Prop :=
  ∀ s : State,
    let pred := fun ft : Nat => if ft = 1 then predSub else if ft = 2 then predUp else if ft = 3 then predAvg else paeth
    let sum := fun ft : Nat => ∑ i ∈ Finset.range s.cfg.rowb, (filteredByte (pred ft) s.cfg.fu s.cur.byte s.prev.byte i).toNat
    let r := (chooseFilter s).toNat
    (s.cfg.colorType = 3 → chooseFilter s = 0) ∧
    (s.cfg.colorType ≠ 3 → s.cfg.filterMode = 1 → chooseFilter s = s.cfg.fixedFilter) ∧
    (s.cfg.colorType ≠ 3 → s.cfg.filterMode ≠ 1 →
      (1 ≤ r ∧ r ≤ 4) ∧
      (∀ ft, 1 ≤ ft → ft ≤ 4 → sum r ≤ sum ft) ∧
      (∀ ft, 1 ≤ ft → ft < r → sum r < sum ft) ∧
      ((∀ i, i < s.cfg.rowb → s.prev.byte i = 0) → r ≠ 4))

/-! ### Packing (43_pack) -/

/-- PACK.RGBA8 and PACK.RGB8 complete in every state: RAW takes the channels of each pixel of row Y, read in the order R, G, B, A, or
A, B, G, R with SRC_ABGR = 1; RAW alone changes (R191, R192, R194). -/
def Obligations.PackTrueColour : Prop :=
  ∀ s : State,
    let channel := fun x j => s.readPix ((s.y.toNat * s.cfg.width.toNat + x) * 4 + if s.cfg.srcAbgr = 0 then j else 3 - j)
    (HasWord (.mode .encode) [8, 6] .packRgba8 ∧ HasWord (.mode .encode) [8, 2] .packRgb8) ∧
    (∃ t, exec .packRgba8 s = .next t ∧ RawFilled s t (4 * s.cfg.width.toNat) fun i => channel (i / 4) (i % 4)) ∧
    (∃ t, exec .packRgb8 s = .next t ∧ RawFilled s t (3 * s.cfg.width.toNat) fun i => channel (i / 3) (i % 3))

/-- PACK.IDX8 completes where every pixel of row Y has a representative: RAW takes the position in EPAL of the pixel's colour, or of
the colour RMAP sends it to, whatever the depth byte of the mode word, and RAW alone changes. Otherwise it raises PaletteMiss with
ERR_ROW = Y and ERR_INFO = (Y * WIDTH + x) mod 2^32 at the first pixel, x ascending, that has none (R193, R204). -/
def Obligations.PackIndexed : Prop :=
  (∀ bd ∈ ([0, 1, 2, 4, 8] : List Byte), HasWord (.mode .encode) [bd, 3] (.packIdx8 bd)) ∧
  ∀ (s : State) (bd : Byte),
    let first := fun (c : Rgba) (k : Nat) => s.epal[k]? = some c ∧ ∀ j, j < k → s.epal[j]? ≠ some c
    let pixel := fun x => readPixel s x s.y.toNat
    let represents := fun x k =>
      first (pixel x) k ∨ (pixel x ∉ s.epal ∧ ∃ c, rmapLookup (pixel x) s.rmap = some c ∧ first c k)
    (∀ k : Nat → Nat, (∀ x, x < s.cfg.width.toNat → k x < 256 ∧ represents x (k x)) →
      ∃ t, exec (.packIdx8 bd) s = .next t ∧ RawFilled s t s.cfg.width.toNat fun x => BitVec.ofNat 8 (k x)) ∧
    ∀ x, x < s.cfg.width.toNat → (∀ k, ¬represents x k) → (∀ x', x' < x → ∃ k, represents x' k) →
      exec (.packIdx8 bd) s =
        .next (s.raise .paletteMiss s.y (BitVec.ofNat 32 ((s.y.toNat * s.cfg.width.toNat + x) % 2 ^ 32)))

/-- The palette scan goes over the pixels in row-major order and collects each colour once, in the order of first appearance; a
capacity turns the scan away exactly when there are more colours than it holds (R196, R197). -/
def Obligations.PaletteScanFirstAppearance : Prop :=
  (∀ s : State, (allPixels s).length = s.cfg.width.toNat * s.cfg.height.toNat ∧
    ∀ x y, x < s.cfg.width.toNat → y < s.cfg.height.toNat →
      (allPixels s)[y * s.cfg.width.toNat + x]? = some (readPixel s x y)) ∧
  ∀ cs : List Rgba, ∃ e, scanPalette none [] cs = some e ∧ e.Nodup ∧ (∀ c, c ∈ e ↔ c ∈ cs) ∧
    e.Pairwise (fun a b => cs.idxOf a < cs.idxOf b) ∧
    ∀ n, scanPalette (some n) [] cs = if e.length ≤ n then some e else none

/-- Bit-depth determination and the palette limit (R199, R200). -/
def Obligations.DepthAndLimit : Prop :=
  (∀ (bd : Byte) (n : Nat), bd ≠ 0 → effectiveDepth bd n = bd) ∧
  (∀ n, n ≤ 2 → effectiveDepth 0 n = 1) ∧
  (∀ n, 2 < n → n ≤ 4 → effectiveDepth 0 n = 2) ∧
  (∀ n, 4 < n → n ≤ 16 → effectiveDepth 0 n = 4) ∧
  (∀ n, 16 < n → effectiveDepth 0 n = 8) ∧
  ∀ (c : Cfg) (bd : Byte),
    (c.maxPalSet = 0 → paletteLimit c bd = min 256 (2 ^ bd.toNat)) ∧
    (c.maxPalSet = 1 → paletteLimit c bd = min (min 256 (2 ^ bd.toNat)) c.maxPal.toNat) ∧
    (¬(c.maxPalSet = 1 ∧ c.maxPal = 0) → 1 ≤ paletteLimit c bd)

/-- The closest pair is one of least squared Euclidean distance over the four channels, and among those the first in lexicographic
order (R202, R203). -/
def Obligations.ClosestPairLexicographic : Prop :=
  ∀ e : List Rgba, 2 ≤ e.length →
    let p := closestPair e
    let sq := fun u v : Byte => ((u.toNat : Int) - (v.toNat : Int)) ^ 2
    let dist := fun i j =>
      let u := e.getD i ⟨0, 0, 0, 0⟩
      let v := e.getD j ⟨0, 0, 0, 0⟩
      sq u.r v.r + sq u.g v.g + sq u.b v.b + sq u.a v.a
    p.1 < p.2 ∧ p.2 < e.length ∧
    ∀ i j, i < j → j < e.length →
      dist p.1 p.2 ≤ dist i j ∧ (dist i j = dist p.1 p.2 → p.1 < i ∨ (p.1 = i ∧ p.2 ≤ j))

/-- A reduction is so many passes; each drops the later entry of the closest pair, maps it to the earlier one and re-points the
earlier mappings to it. Reduction to a limit leaves exactly that many entries in their order; every dropped colour is mapped to a kept
one, no kept colour is a key, and no colour is lost (R202; the closest pair is that of ClosestPairLexicographic). -/
def Obligations.ReductionMapsDropped : Prop :=
  (∀ em, reducePalette 0 em = em) ∧
  (∀ n e m, reducePalette (n + 1) (e, m) = reducePalette n (mergeClosest e m)) ∧
  (∀ (e : List Rgba) (m : List (Rgba × Rgba)) (kept dropped : Rgba),
    e[(closestPair e).1]? = some kept → e[(closestPair e).2]? = some dropped →
    (mergeClosest e m).1 = e.eraseIdx (closestPair e).2 ∧
    ∀ c, rmapLookup c (mergeClosest e m).2 =
      if c = dropped then some kept else (rmapLookup c m).map fun v => if v = dropped then kept else v) ∧
  ∀ (e : List Rgba) (limit : Nat), e.Nodup → 1 ≤ limit → limit ≤ e.length →
    let em := reducePalette (e.length - limit) (e, [])
    em.1.length = limit ∧ em.1.Sublist e ∧
    (∀ c ∈ e, c ∈ em.1 ∨ ∃ kept, rmapLookup c em.2 = some kept ∧ kept ∈ em.1) ∧
    ∀ m ∈ em.2, m.1 ∉ em.1 ∧ m.2 ∈ em.1

/-- A packed Indexed row, unpacked under the palette the prelude writes, gives each pixel's own colour back where EPAL holds it, and
otherwise the kept colour it was merged into (R193, R206, R207; 41_unpack R155, R162). -/
def Obligations.IndexedRowDecodes : Prop :=
  ∀ (s : State) (bd : Byte), s.epal.length ≤ 256 →
    (∀ x, x < s.cfg.width.toNat → indexFor s.epal s.rmap (readPixel s x s.y.toNat) ≠ none) →
    ∃ t u, exec (.packIdx8 bd) (outputPalette s) = .next t ∧ exec .unpackP8 t = .next u ∧
      ∀ x, x < s.cfg.width.toNat →
        let c := readPixel s x s.y.toNat
        (c ∈ s.epal → pixelAt u x s.y.toNat = c) ∧ (c ∉ s.epal → rmapLookup c s.rmap = some (pixelAt u x s.y.toNat))

/-! ### Commands (44_control) -/

/-- NOP completes in every STATE and changes nothing (R221). -/
def Obligations.NopChangesNothing : Prop :=
  HasWord .command [0] .nop ∧ ∀ s : State, exec .nop s = .next s

/-- START is ignored while Running and in Faulted (R223). -/
def Obligations.StartIgnored : Prop :=
  HasWord .command [1] .start ∧ ∀ s : State, s.status = .running ∨ s.status = .faulted → exec .start s = .next s

/-- START in Idle or Done: the first failing check of the table, in its order, names the fault, with ERR_ROW = ERR_INFO = 0 (R224). -/
def Obligations.StartChecksInOrder : Prop :=
  ∀ (s : State) (k : ErrKind), MayStart s → firstFailing (startTable s.cfg) = some k →
    exec .start s = .next (s.raise k 0 0)

/-- START in Idle or Done with every check passed begins the run as R225 says; PACK.IDX8 then runs its prelude (R225). -/
def Obligations.StartAccepted : Prop :=
  ∀ s : State, MayStart s → firstFailing (startTable s.cfg) = none →
    let begun : State :=
      { s with
        y := 0, ip := 0, ft := 0, err := .none, errRow := 0, errInfo := 0
        prev := ⟨s.prev.tag, List.replicate s.cfg.rowb 0⟩
        epal := [], rmap := [], bitDepthEff := 0, status := .running }
    (¬(s.cfg.dir = 1 ∧ s.cfg.colorType = 3) → exec .start s = .next begun) ∧
    (s.cfg.dir = 1 ∧ s.cfg.colorType = 3 → exec .start s = idx8Prelude Config.epalCap begun)

/-- An accepted PACK.IDX8 START whose palette is within the limit, or is reduced to it, leaves the palette in PAL and APAL, its
length in PAL_LEN and APAL_LEN, TRNS_KIND = 3, and the depth of the unreduced size in BIT_DEPTH_EFF (R195, R199 to R202, R206), and
changes nothing else but what START initialises (R225); without REDUCE a palette over the limit is BadPalette (R201). With the
default capacity of the scratch palette (log 7). -/
def Obligations.IndexedStartPalette : Prop :=
  ∀ (s : State) (e : List Rgba), MayStart s → firstFailing (startTable s.cfg) = none → s.cfg.dir = 1 → s.cfg.colorType = 3 →
    scanPalette none [] (allPixels s) = some e →
    let bd := effectiveDepth s.cfg.bitDepth e.length
    let limit := paletteLimit s.cfg bd
    ∃ t, exec .start s = .next t ∧
      (e.length ≤ limit ∨ s.cfg.reduce = 1 →
        (t.epal, t.rmap) = reducePalette (e.length - limit) (e, []) ∧
        t.cfg.palLen.toNat = t.epal.length ∧ t.cfg.apalLen.toNat = t.epal.length ∧
        (∀ k c, t.epal[k]? = some c → palEntry t.pal k = ⟨c.r, c.g, c.b⟩ ∧ Memory.byte t.apal k = c.a) ∧
        (∀ k, t.epal.length ≤ k → palEntry t.pal k = palEntry s.pal k ∧ Memory.byte t.apal k = Memory.byte s.apal k) ∧
        t = { s with
          cfg := { s.cfg with palLen := t.cfg.palLen, apalLen := t.cfg.apalLen, trnsKind := 3 }
          status := .running, y := 0, ip := 0, ft := 0, err := .none, errRow := 0, errInfo := 0, bitDepthEff := bd
          prev := ⟨s.prev.tag, List.replicate s.cfg.rowb 0⟩
          pal := t.pal, apal := t.apal, epal := t.epal, rmap := t.rmap }) ∧
      (limit < e.length → s.cfg.reduce = 0 →
        t.status = .faulted ∧ t.err = .badPalette ∧ t.errRow = 0 ∧ t.errInfo = 0)

/-- RESET completes in every STATE: every register takes its reset value, EPAL and RMAP are emptied, and FSTREAM and PIX keep their
bytes but for the output space of a run it aborts (R232). -/
def Obligations.ResetCommand : Prop :=
  HasWord .command [2] .reset ∧ ∀ s : State, ∃ t, exec .reset s = .next t ∧
    t.cfg = State.reset.cfg ∧ t.status = .idle ∧ t.err = .none ∧ t.errRow = 0 ∧ t.errInfo = 0 ∧ t.y = 0 ∧ t.ip = 0 ∧
    t.ft = 0 ∧ t.bitDepthEff = 0 ∧ t.epal = [] ∧ t.rmap = [] ∧
    (¬(s.status = .running ∧ s.cfg.direction = .encode) → t.fstream = s.fstream) ∧
    (¬(s.status = .running ∧ s.cfg.direction = .decode) → t.pix = s.pix)

/-- START forgets the last run: what Y, IP, FT, PREV, EPAL, RMAP, BIT_DEPTH_EFF and the error registers held makes no difference to
an accepted START (70_reset_and_hazards R283). -/
def Obligations.StartForgetsLastRun : Prop :=
  ∀ (s : State) (y row info : BitVec 32) (ip : Nat) (ft bde : Byte) (err : ErrKind) (old : List Byte) (epal : List Rgba)
    (rmap : List (Rgba × Rgba)), MayStart s → startCheck s.cfg = none →
    exec .start { s with
      y := y, ip := ip, ft := ft, bitDepthEff := bde, err := err, errRow := row, errInfo := info
      prev := ⟨s.prev.tag, old⟩, epal := epal, rmap := rmap } = exec .start s

/-! ### The run loop and its faults (44_control R227 to R231, 60_exceptions) -/

/-- The three faults of FETCH in stream order, a missing filter-type byte, a bad one (FT takes it), a short row; and its answer where
none of them holds (R227). -/
def Obligations.FetchFaults : Prop :=
  ∀ s : State, s.status = .running → s.cfg.direction = .decode →
    let ft := s.readFstream s.ip
    (s.cfg.fstreamLen ≤ s.ip → engineStep s = .next (s.raise .truncated s.y 0)) ∧
    (s.ip < s.cfg.fstreamLen → 4 < ft.toNat →
      engineStep s = .next ({ s with ft := ft }.raise .badFilter s.y (ft.setWidth 32))) ∧
    (s.ip < s.cfg.fstreamLen → ft.toNat ≤ 4 → s.cfg.fstreamLen < s.ip + s.cfg.slen →
      engineStep s = .next ({ s with ft := ft }.raise .truncated s.y 1)) ∧
    (s.ip + s.cfg.slen ≤ s.cfg.fstreamLen → ft.toNat ≤ 4 →
      ∃ i, HasWord (.scanline .decode) [ft] i ∧ fetch s = .ok (i, { s with ft := ft }))

/-- Fault entry writes ERR, ERR_ROW, ERR_INFO and STATE; Y, IP, FT keep their values, and so do the input space and the registers
that are no output of the run (60_exceptions R250, R252). -/
def Obligations.FaultEntry : Prop :=
  ∀ (s : State) (k : ErrKind) (row info : BitVec 32),
    let t := s.raise k row info
    (t.err = k ∧ t.errRow = row ∧ t.errInfo = info ∧ t.status = .faulted) ∧
    (t.y = s.y ∧ t.ip = s.ip ∧ t.ft = s.ft) ∧
    (s.cfg.direction = .decode →
      t.fstream = s.fstream ∧ t.cfg = s.cfg ∧ t.pal = s.pal ∧ t.apal = s.apal ∧ t.bitDepthEff = s.bitDepthEff) ∧
    (s.cfg.direction = .encode →
      t.pix = s.pix ∧ t.cfg = { s.cfg with
        palLen := t.cfg.palLen, apalLen := t.cfg.apalLen, trnsKind := t.cfg.trnsKind, fstreamLen := t.cfg.fstreamLen })

/-- An engine step while Running either faults with Y and IP as they were and ERR_ROW = Y, or moves to the next row: Y + 1,
IP + SLEN, PREV = CUR, Done exactly when Y reaches HEIGHT (R228 to R231). -/
def Obligations.EngineStepAdvances : Prop :=
  ∀ s : State, s.status = .running →
    ∃ t, engineStep s = .next t ∧
      ((t.status = .faulted ∧ t.err ≠ .none ∧ t.errRow = s.y ∧ t.y = s.y ∧ t.ip = s.ip) ∨
       (t.y = s.y + 1 ∧ t.ip = s.ip + s.cfg.slen ∧ t.prev = t.cur ∧ t.err = s.err ∧
        t.status = if t.y = s.cfg.height then .done else .running))

/-- Faulted is left by RESET alone: any other step that answers a state keeps STATE, ERR, ERR_ROW and ERR_INFO (60_exceptions
R253). Over `step`, whose host moves are the model's form (log 3). -/
def Obligations.FaultedUntilReset : Prop :=
  ∀ s t : State, s.status = .faulted → step s = .next t →
    (t.status = .faulted ∧ t.err = s.err ∧ t.errRow = s.errRow ∧ t.errInfo = s.errInfo) ∨
    (t.status = .idle ∧ CommandNext s 2)

/-- The transitions of STATE: Idle or Done to Running by a START whose checks pass, or to Faulted by one that raises; Running to Done
when Y reaches HEIGHT, or to Faulted by a fault; any state to Idle by RESET; no other. Over `step`, whose host moves are the model's
form (log 3; 10_state R42). -/
def Obligations.StateTransitions : Prop :=
  ∀ s t : State, step s = .next t →
    t.status = s.status ∨
    (MayStart s ∧ CommandNext s 1 ∧
      ((t.status = .running ∧ startCheck s.cfg = none) ∨ (t.status = .faulted ∧ t.err ≠ .none))) ∨
    (s.status = .running ∧ ((t.status = .done ∧ t.y = t.cfg.height) ∨ (t.status = .faulted ∧ t.err ≠ .none))) ∨
    (t.status = .idle ∧ CommandNext s 2)

/-- No step while Running changes the input space: FSTREAM in the decode direction, PIX in the encode direction (20_memory R78,
R71). Over `step`, whose host moves are the model's form (log 3). -/
def Obligations.InputSpaceReadOnly : Prop :=
  ∀ s t : State, s.status = .running → step s = .next t →
    (s.cfg.direction = .decode → t.fstream = s.fstream) ∧ (s.cfg.direction = .encode → t.pix = s.pix)

/-- The configuration of a run is the one present at START: while Running no step that leaves the block Running changes an RW
register, PAL or APAL (R222; 70_reset_and_hazards R291). Over `step`, whose host moves are the model's form (log 3). -/
def Obligations.ConfigurationFixedInRun : Prop :=
  ∀ s t : State, s.status = .running → step s = .next t → t.status = .running →
    t.cfg = s.cfg ∧ t.pal = s.pal ∧ t.apal = s.apal ∧ t.epal = s.epal ∧ t.rmap = s.rmap

/-- PIX is never read in the decode direction: from two states that differ in PIX alone a scanline step gives two states that differ
in PIX alone. Where the step does not fault, row Y takes the same bytes in both, and every other byte of each PIX is as it was; where
it faults, both PIX are unspecified in the same way, under the same fresh tag (log 2; 40_unfilter R134, 10_state R55). -/
def Obligations.DecodeIgnoresPix : Prop :=
  ∀ (s t : State) (m : Memory), s.status = .running → s.cfg.direction = .decode → engineStep s = .next t →
    let first := pixelBase s.cfg 0 s.y.toNat
    let beyond := first + 4 * s.cfg.width.toNat
    ∃ n, engineStep { s with pix := m } = .next { t with pix := n } ∧
      (t.status = .faulted → n = t.pix) ∧
      (t.status ≠ .faulted →
        (∀ a, first ≤ a → a < beyond → Memory.byte n a = t.readPix a) ∧
        ∀ a, a < first ∨ beyond ≤ a → Memory.byte n a = Memory.byte m a ∧ t.readPix a = s.readPix a)

/-! ### Host access (44_control R222, R233; 10_state R24) -/

/-- Outside Running a register written is read back truncated to its width, and no other register changes (R24, R233).
Over `step`, whose host moves are the model's form (log 3). -/
def Obligations.RegisterWriteThenRead : Prop :=
  ∀ (s : State) (i v w : Nat) (rest : List HostMove), s.status ≠ .running →
    (registerWidths[i]? = some w ∨ (i = 21 ∧ v < 2 ^ w)) →
    s.pending = .regWrite i v :: .regRead i :: rest →
    ∃ t u, step s = .next t ∧ step t = .next u ∧ u.hostData = .number (v % 2 ^ w) ∧
      (∀ j, j ≠ i → regValue t j = regValue s j) ∧ t = { s with cfg := t.cfg, pending := .regRead i :: rest }

/-- What the host's RegRead hands back in every STATE: each RW register at its index, STATE and ERR under their numbers, and the other
status registers; nothing else changes (R24, R42, R233; 60_exceptions R241).
Over `step`, whose host moves are the model's form (log 3). -/
def Obligations.RegistersRead : Prop :=
  ∀ (s : State) (rest : List HostMove),
    let reads := fun i n => s.pending = .regRead i :: rest → step s = .next { s with pending := rest, hostData := .number n }
    let c := s.cfg
    (∀ e ∈ ([(0, c.width.toNat), (1, c.height.toNat), (2, c.bitDepth.toNat), (3, c.colorType.toNat), (4, c.filterMethod.toNat),
        (5, c.interlace.toNat), (6, c.dir.toNat), (7, c.trnsKind.toNat), (8, c.trnsGray.toNat), (9, c.trnsR.toNat),
        (10, c.trnsG.toNat), (11, c.trnsB.toNat), (12, c.palLen.toNat), (13, c.apalLen.toNat), (14, c.filterMode.toNat),
        (15, c.fixedFilterValid.toNat), (16, c.fixedFilter.toNat), (17, c.srcAbgr.toNat), (18, c.maxPalSet.toNat),
        (19, c.maxPal.toNat), (20, c.reduce.toNat), (21, c.fstreamLen), (34, s.errRow.toNat), (35, s.errInfo.toNat),
        (36, s.y.toNat), (37, s.ip), (38, s.ft.toNat), (39, s.bitDepthEff.toNat)] : List (Nat × Nat)), reads e.1 e.2) ∧
    (∀ e ∈ ([(.idle, 0), (.running, 1), (.done, 2), (.faulted, 3)] : List (RunState × Nat)), s.status = e.1 → reads 32 e.2) ∧
    ∀ e ∈ ([(.none, 0), (.badSignature, 1), (.truncated, 2), (.chunkLengthMismatch, 3), (.badHeader, 4), (.badPalette, 5),
        (.missingPalette, 6), (.missingData, 7), (.badTransparency, 8), (.badFilter, 9), (.badBitDepth, 10),
        (.unsupportedColorType, 11), (.unsupportedMode, 12), (.paletteMiss, 13), (.inflateError, 14), (.deflateError, 15),
        (.unsupportedInterlace, 16), (.corruptChunk, 17), (.paletteIndexRange, 18)] : List (ErrKind × Nat)),
      s.err = e.1 → reads 33 e.2

/-- While Running a write of an RW register, of a PAL or APAL entry, or of START to CMD has no effect on the block (R222).
Over `step`, whose host moves are the model's form (log 3). -/
def Obligations.WritesIgnoredWhileRunning : Prop :=
  ∀ (s : State) (m : HostMove) (rest : List HostMove), s.status = .running → s.pending = m :: rest →
    ((∃ i v, i < 22 ∧ m = .regWrite i v) ∨ (∃ k c, m = .palWrite k c) ∨ (∃ k a, m = .apalWrite k a) ∨ m = .cmd 1) →
    step s = .next { s with pending := rest }

/-- The moves the spec gives no meaning are refused: a reserved command code, a register index that names nothing, a write of a
read-only register, a read of CMD, a write of a space while Running (R24, R50; 30_encoding R106; 93 U4, U5, U7).
Over `step`, whose host moves are the model's form (log 3). -/
def Obligations.MeaninglessMovesRefused : Prop :=
  ∀ (s : State) (rest : List HostMove),
    (∀ code : Byte, 2 < code.toNat → s.pending = .cmd code :: rest → step s = .refused (.reservedCommand code)) ∧
    (∀ i v, (22 ≤ i ∧ i ≤ 31) ∨ (40 ≤ i ∧ i ≤ 47) ∨ 49 ≤ i →
      (s.pending = .regRead i :: rest → step s = .refused (.noSuchRegister i)) ∧
      (s.pending = .regWrite i v :: rest → step s = .refused (.noSuchRegister i))) ∧
    (∀ i v, 32 ≤ i → i ≤ 39 → s.pending = .regWrite i v :: rest → step s = .refused (.readOnlyRegister i)) ∧
    (s.pending = .regRead 48 :: rest → step s = .refused (.writeOnlyRegister 48)) ∧
    (∀ a b, s.status = .running → s.pending = .fstreamWrite a b :: rest ∨ s.pending = .pixWrite a b :: rest →
      step s = .refused .memoryWriteWhileRunning)

/-- Outside Running a table entry below its length, or a byte of a space, that is written is read back (R233, R220).
Over `step`, whose host moves are the model's form (log 3). -/
def Obligations.TableAndMemoryReadBack : Prop :=
  ∀ (s : State) (rest : List HostMove), s.status ≠ .running →
    (∀ k c, k.toNat < s.cfg.palLen.toNat → s.pending = .palWrite k c :: .palRead k :: rest →
      ∃ t u, step s = .next t ∧ step t = .next u ∧ u.hostData = .colour c) ∧
    (∀ k a, k.toNat < s.cfg.apalLen.toNat → s.pending = .apalWrite k a :: .apalRead k :: rest →
      ∃ t u, step s = .next t ∧ step t = .next u ∧ u.hostData = .byte a) ∧
    (∀ a b, s.pending = .fstreamWrite a b :: .fstreamRead a :: rest →
      ∃ t u, step s = .next t ∧ step t = .next u ∧ u.hostData = .byte b ∧
        ∀ a', a' ≠ a → u.readFstream a' = s.readFstream a') ∧
    (∀ a b, s.pending = .pixWrite a b :: .pixRead a :: rest →
      ∃ t u, step s = .next t ∧ step t = .next u ∧ u.hostData = .byte b ∧ ∀ a', a' ≠ a → u.readPix a' = s.readPix a')

/-! ### Reset (10_state R57, 70_reset_and_hazards R280, R282) -/

/-- The reset state holds the values of R57, and START issued in it faults with BadHeader (R282). -/
def Obligations.ResetValues : Prop :=
  (∀ i, i < 22 → readCfg State.reset.cfg i = some 0) ∧
  (∀ i, 32 ≤ i → i ≤ 39 → readStatus State.reset i = some 0) ∧
  State.reset.epal = [] ∧ State.reset.rmap = [] ∧
  ∃ t, exec .start State.reset = .next t ∧ t.status = .faulted ∧ t.err = .badHeader

/-! ### Invariants of every step -/

/-- Every step keeps the spaces and tables in canonical form. Over `step`, whose host moves are the model's form (log 3). -/
def Obligations.StepKeepsCanonical : Prop :=
  ∀ s t : State, MemoryCanonical s → step s = .next t → MemoryCanonical t

/-- Every step keeps: at a scanline boundary of a run the configuration passes START's checks, IP = Y * SLEN, Y < HEIGHT and PREV has
ROWB bytes; and ERR holds a kind exactly in Faulted (10_state R22, R42, R43, R48, R49).
Over `step`, whose host moves are the model's form (log 3). -/
def Obligations.StepKeepsRunConsistent : Prop :=
  ∀ s t : State, RunConsistent s → FaultRecorded s → step s = .next t → RunConsistent t ∧ FaultRecorded t

/-- Every step keeps: during an Indexed encode run every pixel has a representative, so PaletteMiss is out of reach (43_pack R205).
Over `step`, whose host moves are the model's form (log 3). -/
def Obligations.StepKeepsPaletteCovers : Prop :=
  ∀ s t : State, PaletteCovers s → step s = .next t → PaletteCovers t

/-- In a run that meets the run invariants no step raises PaletteMiss (43_pack R205).
Over `step`, whose host moves are the model's form (log 3). -/
def Obligations.PaletteMissUnreachable : Prop :=
  ∀ s t : State, RunConsistent s → FaultRecorded s → PaletteCovers s → s.status = .running → step s = .next t →
    t.err ≠ .paletteMiss

/-- Every step keeps: the tags in use are below the next one (log 2). Over `step`, whose host moves are the model's form (log 3). -/
def Obligations.StepKeepsTagsUsed : Prop :=
  ∀ s t : State, TagsUsed s → step s = .next t → TagsUsed t

/-- The reset state meets every invariant. Its TagsUsed clause is about the model's own fields and rests on the model's choice of the
power-on tags and of the counter's start (logs 2, 4, 5). -/
def Obligations.ResetMeetsInvariants : Prop :=
  MemoryCanonical State.reset ∧ RunConsistent State.reset ∧ FaultRecorded State.reset ∧ PaletteCovers State.reset ∧
    TagsUsed State.reset

/-! ### Whole runs -/

/-- Every run ends after at most HEIGHT scanline steps, in Done or Faulted (R230; 70_reset_and_hazards R297).
A run is a run of `step`, whose host moves are the model's form (log 3). -/
def Obligations.RunEnds : Prop :=
  ∀ s : State, RunConsistent s → s.status = .running → s.pending = [] →
    ∃ t, Host.Core.run core (s.cfg.height.toNat - s.y.toNat) s = .next t ∧ (t.status = .done ∨ t.status = .faulted)

/-- A decode run that ends Done has written every byte of PIX at offsets 0 to WIDTH * HEIGHT * 4 - 1 and no other (20_memory R70).
A run is a run of `step`, whose host moves are the model's form (log 3). -/
def Obligations.DecodeWritesEveryPixel : Prop :=
  ∀ s t : State, RunConsistent s → s.status = .running → s.cfg.direction = .decode → s.y = 0 → s.pending = [] →
    Host.Core.run core s.cfg.height.toNat s = .next t → t.status = .done →
    (∀ a, a < s.cfg.width.toNat * s.cfg.height.toNat * 4 → t.pix.get? a ≠ none) ∧
    ∀ a, s.cfg.width.toNat * s.cfg.height.toNat * 4 ≤ a → t.pix.get? a = s.pix.get? a

/-- The RGBA8 round trip: an encode run over PIX in any filter mode, then a decode run over the FSTREAM it left, gives the pixels
back; with SRC_ABGR = 1 each pixel's four bytes come back reversed (42_filter R185).
A run is a run of `step`, whose host moves are the model's form (log 3). -/
def Obligations.Rgba8RoundTrip : Prop :=
  ∀ s : State, MayStart s → s.pending = [.cmd 1] → s.cfg.dir = 1 → s.cfg.colorType = 6 → startCheck s.cfg = none →
    ∃ t, Host.Core.run core (1 + s.cfg.height.toNat) s = .next t ∧ t.status = .done ∧
      t.cfg.fstreamLen = s.cfg.height.toNat * s.cfg.slen ∧
      ∀ m : Memory, ∃ u,
        Host.Core.run core (1 + s.cfg.height.toNat)
          { t with cfg := { t.cfg with dir := 0, trnsKind := 0 }, pix := m, pending := [.cmd 1] } = .next u ∧
        u.status = .done ∧
        ∀ p j, p < s.cfg.width.toNat * s.cfg.height.toNat → j < 4 →
          u.readPix (4 * p + j) = s.readPix (4 * p + if s.cfg.srcAbgr = 0 then j else 3 - j)

/-- The row-stripe arrangement changes nothing a host can observe: a run under any legal partition, and under any list of stripes in a
mode that has none, ends with the STATE, error registers, Y, IP, FT and every byte of PIX and FSTREAM of the single engine
(60_exceptions R264 to R269). `stripeRun` is the model's own form (log 13), and after a fault the unspecified bytes agree because both
take the same fresh tags (log 2). -/
def Obligations.StripesMatchSingleEngine : Prop :=
  ∀ (s : State) (ps : List Stripe), RunConsistent s → s.status = .running → s.y = 0 →
    s.prev.bytes = List.replicate s.cfg.rowb 0 → (stripesApply s.cfg = true → legalPartition s ps = true) →
    ∃ t, runRows s.cfg.height.toNat s = .next t ∧
      let u := stripeRun s ps
      u.status = t.status ∧ u.err = t.err ∧ u.errRow = t.errRow ∧ u.errInfo = t.errInfo ∧ u.y = t.y ∧ u.ip = t.ip ∧ u.ft = t.ft ∧
        ∀ a, u.readPix a = t.readPix a ∧ u.readFstream a = t.readFstream a
end

