-- ==== Sys2Proof/Laws/State.lean ====
section
/-! SUPPORT. What each named update of `State` leaves and what it sets, one lemma per field per update; the inverse forms for the
operations that depend on DIR. -/

namespace Sys2Proof.Machine

@[simp] theorem State.setCur_cfg (s : State) (row : List Byte) : (s.setCur row).cfg = s.cfg := rfl
@[simp] theorem State.setCur_status (s : State) (row : List Byte) : (s.setCur row).status = s.status := rfl
@[simp] theorem State.setCur_err (s : State) (row : List Byte) : (s.setCur row).err = s.err := rfl
@[simp] theorem State.setCur_errRow (s : State) (row : List Byte) : (s.setCur row).errRow = s.errRow := rfl
@[simp] theorem State.setCur_errInfo (s : State) (row : List Byte) : (s.setCur row).errInfo = s.errInfo := rfl
@[simp] theorem State.setCur_y (s : State) (row : List Byte) : (s.setCur row).y = s.y := rfl
@[simp] theorem State.setCur_ip (s : State) (row : List Byte) : (s.setCur row).ip = s.ip := rfl
@[simp] theorem State.setCur_ft (s : State) (row : List Byte) : (s.setCur row).ft = s.ft := rfl
@[simp] theorem State.setCur_bitDepthEff (s : State) (row : List Byte) : (s.setCur row).bitDepthEff = s.bitDepthEff := rfl
@[simp] theorem State.setCur_prev (s : State) (row : List Byte) : (s.setCur row).prev = s.prev := rfl
@[simp] theorem State.setCur_pal (s : State) (row : List Byte) : (s.setCur row).pal = s.pal := rfl
@[simp] theorem State.setCur_apal (s : State) (row : List Byte) : (s.setCur row).apal = s.apal := rfl
@[simp] theorem State.setCur_epal (s : State) (row : List Byte) : (s.setCur row).epal = s.epal := rfl
@[simp] theorem State.setCur_rmap (s : State) (row : List Byte) : (s.setCur row).rmap = s.rmap := rfl
@[simp] theorem State.setCur_fstream (s : State) (row : List Byte) : (s.setCur row).fstream = s.fstream := rfl
@[simp] theorem State.setCur_pix (s : State) (row : List Byte) : (s.setCur row).pix = s.pix := rfl
@[simp] theorem State.setCur_pending (s : State) (row : List Byte) : (s.setCur row).pending = s.pending := rfl
@[simp] theorem State.setCur_hostData (s : State) (row : List Byte) : (s.setCur row).hostData = s.hostData := rfl
@[simp] theorem State.setCur_freeCount (s : State) (row : List Byte) : (s.setCur row).freeCount = s.freeCount := rfl

@[simp] theorem State.setCur_cur (s : State) (row : List Byte) : (s.setCur row).cur = ⟨s.cur.tag, row⟩ := rfl

@[simp] theorem State.writePix_cfg (s : State) (a : Nat) (bs : List Byte) : (s.writePix a bs).cfg = s.cfg := rfl
@[simp] theorem State.writePix_status (s : State) (a : Nat) (bs : List Byte) : (s.writePix a bs).status = s.status := rfl
@[simp] theorem State.writePix_err (s : State) (a : Nat) (bs : List Byte) : (s.writePix a bs).err = s.err := rfl
@[simp] theorem State.writePix_errRow (s : State) (a : Nat) (bs : List Byte) : (s.writePix a bs).errRow = s.errRow := rfl
@[simp] theorem State.writePix_errInfo (s : State) (a : Nat) (bs : List Byte) : (s.writePix a bs).errInfo = s.errInfo := rfl
@[simp] theorem State.writePix_y (s : State) (a : Nat) (bs : List Byte) : (s.writePix a bs).y = s.y := rfl
@[simp] theorem State.writePix_ip (s : State) (a : Nat) (bs : List Byte) : (s.writePix a bs).ip = s.ip := rfl
@[simp] theorem State.writePix_ft (s : State) (a : Nat) (bs : List Byte) : (s.writePix a bs).ft = s.ft := rfl
@[simp] theorem State.writePix_bitDepthEff (s : State) (a : Nat) (bs : List Byte) : (s.writePix a bs).bitDepthEff = s.bitDepthEff := rfl
@[simp] theorem State.writePix_cur (s : State) (a : Nat) (bs : List Byte) : (s.writePix a bs).cur = s.cur := rfl
@[simp] theorem State.writePix_prev (s : State) (a : Nat) (bs : List Byte) : (s.writePix a bs).prev = s.prev := rfl
@[simp] theorem State.writePix_pal (s : State) (a : Nat) (bs : List Byte) : (s.writePix a bs).pal = s.pal := rfl
@[simp] theorem State.writePix_apal (s : State) (a : Nat) (bs : List Byte) : (s.writePix a bs).apal = s.apal := rfl
@[simp] theorem State.writePix_epal (s : State) (a : Nat) (bs : List Byte) : (s.writePix a bs).epal = s.epal := rfl
@[simp] theorem State.writePix_rmap (s : State) (a : Nat) (bs : List Byte) : (s.writePix a bs).rmap = s.rmap := rfl
@[simp] theorem State.writePix_fstream (s : State) (a : Nat) (bs : List Byte) : (s.writePix a bs).fstream = s.fstream := rfl
@[simp] theorem State.writePix_pending (s : State) (a : Nat) (bs : List Byte) : (s.writePix a bs).pending = s.pending := rfl
@[simp] theorem State.writePix_hostData (s : State) (a : Nat) (bs : List Byte) : (s.writePix a bs).hostData = s.hostData := rfl
@[simp] theorem State.writePix_freeCount (s : State) (a : Nat) (bs : List Byte) : (s.writePix a bs).freeCount = s.freeCount := rfl

@[simp] theorem State.writePix_pix (s : State) (a : Nat) (bs : List Byte) :
    (s.writePix a bs).pix = s.pix.writeList a bs := rfl

@[simp] theorem State.writeFstream_cfg (s : State) (a : Nat) (bs : List Byte) : (s.writeFstream a bs).cfg = s.cfg := rfl
@[simp] theorem State.writeFstream_status (s : State) (a : Nat) (bs : List Byte) : (s.writeFstream a bs).status = s.status := rfl
@[simp] theorem State.writeFstream_err (s : State) (a : Nat) (bs : List Byte) : (s.writeFstream a bs).err = s.err := rfl
@[simp] theorem State.writeFstream_errRow (s : State) (a : Nat) (bs : List Byte) : (s.writeFstream a bs).errRow = s.errRow := rfl
@[simp] theorem State.writeFstream_errInfo (s : State) (a : Nat) (bs : List Byte) : (s.writeFstream a bs).errInfo = s.errInfo := rfl
@[simp] theorem State.writeFstream_y (s : State) (a : Nat) (bs : List Byte) : (s.writeFstream a bs).y = s.y := rfl
@[simp] theorem State.writeFstream_ip (s : State) (a : Nat) (bs : List Byte) : (s.writeFstream a bs).ip = s.ip := rfl
@[simp] theorem State.writeFstream_ft (s : State) (a : Nat) (bs : List Byte) : (s.writeFstream a bs).ft = s.ft := rfl
@[simp] theorem State.writeFstream_bitDepthEff (s : State) (a : Nat) (bs : List Byte) : (s.writeFstream a bs).bitDepthEff = s.bitDepthEff := rfl
@[simp] theorem State.writeFstream_cur (s : State) (a : Nat) (bs : List Byte) : (s.writeFstream a bs).cur = s.cur := rfl
@[simp] theorem State.writeFstream_prev (s : State) (a : Nat) (bs : List Byte) : (s.writeFstream a bs).prev = s.prev := rfl
@[simp] theorem State.writeFstream_pal (s : State) (a : Nat) (bs : List Byte) : (s.writeFstream a bs).pal = s.pal := rfl
@[simp] theorem State.writeFstream_apal (s : State) (a : Nat) (bs : List Byte) : (s.writeFstream a bs).apal = s.apal := rfl
@[simp] theorem State.writeFstream_epal (s : State) (a : Nat) (bs : List Byte) : (s.writeFstream a bs).epal = s.epal := rfl
@[simp] theorem State.writeFstream_rmap (s : State) (a : Nat) (bs : List Byte) : (s.writeFstream a bs).rmap = s.rmap := rfl
@[simp] theorem State.writeFstream_pix (s : State) (a : Nat) (bs : List Byte) : (s.writeFstream a bs).pix = s.pix := rfl
@[simp] theorem State.writeFstream_pending (s : State) (a : Nat) (bs : List Byte) : (s.writeFstream a bs).pending = s.pending := rfl
@[simp] theorem State.writeFstream_hostData (s : State) (a : Nat) (bs : List Byte) : (s.writeFstream a bs).hostData = s.hostData := rfl
@[simp] theorem State.writeFstream_freeCount (s : State) (a : Nat) (bs : List Byte) : (s.writeFstream a bs).freeCount = s.freeCount := rfl

@[simp] theorem State.writeFstream_fstream (s : State) (a : Nat) (bs : List Byte) :
    (s.writeFstream a bs).fstream = s.fstream.writeList a bs := rfl

@[simp] theorem State.enterFault_cfg (s : State) (k : ErrKind) (r v : BitVec 32) : (s.enterFault k r v).cfg = s.cfg := rfl
@[simp] theorem State.enterFault_y (s : State) (k : ErrKind) (r v : BitVec 32) : (s.enterFault k r v).y = s.y := rfl
@[simp] theorem State.enterFault_ip (s : State) (k : ErrKind) (r v : BitVec 32) : (s.enterFault k r v).ip = s.ip := rfl
@[simp] theorem State.enterFault_ft (s : State) (k : ErrKind) (r v : BitVec 32) : (s.enterFault k r v).ft = s.ft := rfl
@[simp] theorem State.enterFault_bitDepthEff (s : State) (k : ErrKind) (r v : BitVec 32) : (s.enterFault k r v).bitDepthEff = s.bitDepthEff := rfl
@[simp] theorem State.enterFault_cur (s : State) (k : ErrKind) (r v : BitVec 32) : (s.enterFault k r v).cur = s.cur := rfl
@[simp] theorem State.enterFault_prev (s : State) (k : ErrKind) (r v : BitVec 32) : (s.enterFault k r v).prev = s.prev := rfl
@[simp] theorem State.enterFault_pal (s : State) (k : ErrKind) (r v : BitVec 32) : (s.enterFault k r v).pal = s.pal := rfl
@[simp] theorem State.enterFault_apal (s : State) (k : ErrKind) (r v : BitVec 32) : (s.enterFault k r v).apal = s.apal := rfl
@[simp] theorem State.enterFault_epal (s : State) (k : ErrKind) (r v : BitVec 32) : (s.enterFault k r v).epal = s.epal := rfl
@[simp] theorem State.enterFault_rmap (s : State) (k : ErrKind) (r v : BitVec 32) : (s.enterFault k r v).rmap = s.rmap := rfl
@[simp] theorem State.enterFault_fstream (s : State) (k : ErrKind) (r v : BitVec 32) : (s.enterFault k r v).fstream = s.fstream := rfl
@[simp] theorem State.enterFault_pix (s : State) (k : ErrKind) (r v : BitVec 32) : (s.enterFault k r v).pix = s.pix := rfl
@[simp] theorem State.enterFault_pending (s : State) (k : ErrKind) (r v : BitVec 32) : (s.enterFault k r v).pending = s.pending := rfl
@[simp] theorem State.enterFault_hostData (s : State) (k : ErrKind) (r v : BitVec 32) : (s.enterFault k r v).hostData = s.hostData := rfl
@[simp] theorem State.enterFault_freeCount (s : State) (k : ErrKind) (r v : BitVec 32) : (s.enterFault k r v).freeCount = s.freeCount := rfl

@[simp] theorem State.enterFault_status (s : State) (k : ErrKind) (r v : BitVec 32) : (s.enterFault k r v).status = .faulted := rfl
@[simp] theorem State.enterFault_err (s : State) (k : ErrKind) (r v : BitVec 32) : (s.enterFault k r v).err = k := rfl
@[simp] theorem State.enterFault_errRow (s : State) (k : ErrKind) (r v : BitVec 32) : (s.enterFault k r v).errRow = r := rfl
@[simp] theorem State.enterFault_errInfo (s : State) (k : ErrKind) (r v : BitVec 32) : (s.enterFault k r v).errInfo = v := rfl

@[simp] theorem State.scrambleOutput_status (s : State) : s.scrambleOutput.status = s.status := by
  unfold State.scrambleOutput; split <;> rfl
@[simp] theorem State.scrambleOutput_err (s : State) : s.scrambleOutput.err = s.err := by
  unfold State.scrambleOutput; split <;> rfl
@[simp] theorem State.scrambleOutput_errRow (s : State) : s.scrambleOutput.errRow = s.errRow := by
  unfold State.scrambleOutput; split <;> rfl
@[simp] theorem State.scrambleOutput_errInfo (s : State) : s.scrambleOutput.errInfo = s.errInfo := by
  unfold State.scrambleOutput; split <;> rfl
@[simp] theorem State.scrambleOutput_y (s : State) : s.scrambleOutput.y = s.y := by
  unfold State.scrambleOutput; split <;> rfl
@[simp] theorem State.scrambleOutput_ip (s : State) : s.scrambleOutput.ip = s.ip := by
  unfold State.scrambleOutput; split <;> rfl
@[simp] theorem State.scrambleOutput_ft (s : State) : s.scrambleOutput.ft = s.ft := by
  unfold State.scrambleOutput; split <;> rfl
@[simp] theorem State.scrambleOutput_prev (s : State) : s.scrambleOutput.prev = s.prev := by
  unfold State.scrambleOutput; split <;> rfl
@[simp] theorem State.scrambleOutput_epal (s : State) : s.scrambleOutput.epal = s.epal := by
  unfold State.scrambleOutput; split <;> rfl
@[simp] theorem State.scrambleOutput_rmap (s : State) : s.scrambleOutput.rmap = s.rmap := by
  unfold State.scrambleOutput; split <;> rfl
@[simp] theorem State.scrambleOutput_pending (s : State) : s.scrambleOutput.pending = s.pending := by
  unfold State.scrambleOutput; split <;> rfl
@[simp] theorem State.scrambleOutput_hostData (s : State) : s.scrambleOutput.hostData = s.hostData := by
  unfold State.scrambleOutput; split <;> rfl

/-- DIR is no part of the output space. -/
@[simp] theorem State.scrambleOutput_direction (s : State) : s.scrambleOutput.cfg.direction = s.cfg.direction := by
  unfold State.scrambleOutput; split <;> rfl

theorem State.scrambleOutput_cfg_decode (s : State) (h : s.cfg.direction = .decode) : s.scrambleOutput.cfg = s.cfg := by
  unfold State.scrambleOutput; rw [h]
theorem State.scrambleOutput_bitDepthEff_decode (s : State) (h : s.cfg.direction = .decode) : s.scrambleOutput.bitDepthEff = s.bitDepthEff := by
  unfold State.scrambleOutput; rw [h]
theorem State.scrambleOutput_pal_decode (s : State) (h : s.cfg.direction = .decode) : s.scrambleOutput.pal = s.pal := by
  unfold State.scrambleOutput; rw [h]
theorem State.scrambleOutput_apal_decode (s : State) (h : s.cfg.direction = .decode) : s.scrambleOutput.apal = s.apal := by
  unfold State.scrambleOutput; rw [h]
theorem State.scrambleOutput_fstream_decode (s : State) (h : s.cfg.direction = .decode) : s.scrambleOutput.fstream = s.fstream := by
  unfold State.scrambleOutput; rw [h]
theorem State.scrambleOutput_pix_decode (s : State) (h : s.cfg.direction = .decode) :
    s.scrambleOutput.pix = Store.unwritten (s.freeCount + 1) := by
  unfold State.scrambleOutput; rw [h]
theorem State.scrambleOutput_pix_encode (s : State) (h : s.cfg.direction = .encode) : s.scrambleOutput.pix = s.pix := by
  unfold State.scrambleOutput; rw [h]
theorem State.scrambleOutput_fstream_encode (s : State) (h : s.cfg.direction = .encode) :
    s.scrambleOutput.fstream = Store.unwritten (s.freeCount + 1) := by
  unfold State.scrambleOutput; rw [h]

@[simp] theorem State.raise_y (s : State) (k : ErrKind) (r v : BitVec 32) : (s.raise k r v).y = s.y := by
  simp [State.raise]
@[simp] theorem State.raise_ip (s : State) (k : ErrKind) (r v : BitVec 32) : (s.raise k r v).ip = s.ip := by
  simp [State.raise]
@[simp] theorem State.raise_ft (s : State) (k : ErrKind) (r v : BitVec 32) : (s.raise k r v).ft = s.ft := by
  simp [State.raise]
@[simp] theorem State.raise_prev (s : State) (k : ErrKind) (r v : BitVec 32) : (s.raise k r v).prev = s.prev := by
  simp [State.raise]
@[simp] theorem State.raise_epal (s : State) (k : ErrKind) (r v : BitVec 32) : (s.raise k r v).epal = s.epal := by
  simp [State.raise]
@[simp] theorem State.raise_rmap (s : State) (k : ErrKind) (r v : BitVec 32) : (s.raise k r v).rmap = s.rmap := by
  simp [State.raise]
@[simp] theorem State.raise_pending (s : State) (k : ErrKind) (r v : BitVec 32) : (s.raise k r v).pending = s.pending := by
  simp [State.raise]
@[simp] theorem State.raise_hostData (s : State) (k : ErrKind) (r v : BitVec 32) : (s.raise k r v).hostData = s.hostData := by
  simp [State.raise]
@[simp] theorem State.raise_status (s : State) (k : ErrKind) (r v : BitVec 32) : (s.raise k r v).status = .faulted := rfl
@[simp] theorem State.raise_err (s : State) (k : ErrKind) (r v : BitVec 32) : (s.raise k r v).err = k := rfl
@[simp] theorem State.raise_errRow (s : State) (k : ErrKind) (r v : BitVec 32) : (s.raise k r v).errRow = r := rfl
@[simp] theorem State.raise_errInfo (s : State) (k : ErrKind) (r v : BitVec 32) : (s.raise k r v).errInfo = v := rfl
@[simp] theorem State.raise_direction (s : State) (k : ErrKind) (r v : BitVec 32) :
    (s.raise k r v).cfg.direction = s.cfg.direction := by simp [State.raise]

theorem State.raise_cfg_decode (s : State) (k : ErrKind) (r v : BitVec 32) (h : s.cfg.direction = .decode) :
    (s.raise k r v).cfg = s.cfg := by simp [State.raise, State.scrambleOutput_cfg_decode _ h]
theorem State.raise_bitDepthEff_decode (s : State) (k : ErrKind) (r v : BitVec 32) (h : s.cfg.direction = .decode) :
    (s.raise k r v).bitDepthEff = s.bitDepthEff := by simp [State.raise, State.scrambleOutput_bitDepthEff_decode _ h]
theorem State.raise_pal_decode (s : State) (k : ErrKind) (r v : BitVec 32) (h : s.cfg.direction = .decode) :
    (s.raise k r v).pal = s.pal := by simp [State.raise, State.scrambleOutput_pal_decode _ h]
theorem State.raise_apal_decode (s : State) (k : ErrKind) (r v : BitVec 32) (h : s.cfg.direction = .decode) :
    (s.raise k r v).apal = s.apal := by simp [State.raise, State.scrambleOutput_apal_decode _ h]
theorem State.raise_fstream_decode (s : State) (k : ErrKind) (r v : BitVec 32) (h : s.cfg.direction = .decode) :
    (s.raise k r v).fstream = s.fstream := by simp [State.raise, State.scrambleOutput_fstream_decode _ h]
theorem State.raise_pix_encode (s : State) (k : ErrKind) (r v : BitVec 32) (h : s.cfg.direction = .encode) :
    (s.raise k r v).pix = s.pix := by simp [State.raise, State.scrambleOutput_pix_encode _ h]

@[simp] theorem State.nextRow_cfg (s : State) : (s.nextRow).cfg = s.cfg := rfl
@[simp] theorem State.nextRow_status (s : State) : (s.nextRow).status = s.status := rfl
@[simp] theorem State.nextRow_err (s : State) : (s.nextRow).err = s.err := rfl
@[simp] theorem State.nextRow_errRow (s : State) : (s.nextRow).errRow = s.errRow := rfl
@[simp] theorem State.nextRow_errInfo (s : State) : (s.nextRow).errInfo = s.errInfo := rfl
@[simp] theorem State.nextRow_ft (s : State) : (s.nextRow).ft = s.ft := rfl
@[simp] theorem State.nextRow_bitDepthEff (s : State) : (s.nextRow).bitDepthEff = s.bitDepthEff := rfl
@[simp] theorem State.nextRow_cur (s : State) : (s.nextRow).cur = s.cur := rfl
@[simp] theorem State.nextRow_pal (s : State) : (s.nextRow).pal = s.pal := rfl
@[simp] theorem State.nextRow_apal (s : State) : (s.nextRow).apal = s.apal := rfl
@[simp] theorem State.nextRow_epal (s : State) : (s.nextRow).epal = s.epal := rfl
@[simp] theorem State.nextRow_rmap (s : State) : (s.nextRow).rmap = s.rmap := rfl
@[simp] theorem State.nextRow_fstream (s : State) : (s.nextRow).fstream = s.fstream := rfl
@[simp] theorem State.nextRow_pix (s : State) : (s.nextRow).pix = s.pix := rfl
@[simp] theorem State.nextRow_pending (s : State) : (s.nextRow).pending = s.pending := rfl
@[simp] theorem State.nextRow_hostData (s : State) : (s.nextRow).hostData = s.hostData := rfl
@[simp] theorem State.nextRow_freeCount (s : State) : (s.nextRow).freeCount = s.freeCount := rfl

@[simp] theorem State.nextRow_prev (s : State) : s.nextRow.prev = s.cur := rfl
@[simp] theorem State.nextRow_y (s : State) : s.nextRow.y = s.y + 1 := rfl
@[simp] theorem State.nextRow_ip (s : State) : s.nextRow.ip = s.ip + s.cfg.slen := rfl

@[simp] theorem State.finishDecode_cfg (s : State) : s.finishDecode.cfg = s.cfg := by
  unfold State.finishDecode; split <;> rfl
@[simp] theorem State.finishDecode_err (s : State) : s.finishDecode.err = s.err := by
  unfold State.finishDecode; split <;> rfl
@[simp] theorem State.finishDecode_errRow (s : State) : s.finishDecode.errRow = s.errRow := by
  unfold State.finishDecode; split <;> rfl
@[simp] theorem State.finishDecode_errInfo (s : State) : s.finishDecode.errInfo = s.errInfo := by
  unfold State.finishDecode; split <;> rfl
@[simp] theorem State.finishDecode_y (s : State) : s.finishDecode.y = s.y := by
  unfold State.finishDecode; split <;> rfl
@[simp] theorem State.finishDecode_ip (s : State) : s.finishDecode.ip = s.ip := by
  unfold State.finishDecode; split <;> rfl
@[simp] theorem State.finishDecode_ft (s : State) : s.finishDecode.ft = s.ft := by
  unfold State.finishDecode; split <;> rfl
@[simp] theorem State.finishDecode_bitDepthEff (s : State) : s.finishDecode.bitDepthEff = s.bitDepthEff := by
  unfold State.finishDecode; split <;> rfl
@[simp] theorem State.finishDecode_cur (s : State) : s.finishDecode.cur = s.cur := by
  unfold State.finishDecode; split <;> rfl
@[simp] theorem State.finishDecode_prev (s : State) : s.finishDecode.prev = s.prev := by
  unfold State.finishDecode; split <;> rfl
@[simp] theorem State.finishDecode_pal (s : State) : s.finishDecode.pal = s.pal := by
  unfold State.finishDecode; split <;> rfl
@[simp] theorem State.finishDecode_apal (s : State) : s.finishDecode.apal = s.apal := by
  unfold State.finishDecode; split <;> rfl
@[simp] theorem State.finishDecode_epal (s : State) : s.finishDecode.epal = s.epal := by
  unfold State.finishDecode; split <;> rfl
@[simp] theorem State.finishDecode_rmap (s : State) : s.finishDecode.rmap = s.rmap := by
  unfold State.finishDecode; split <;> rfl
@[simp] theorem State.finishDecode_fstream (s : State) : s.finishDecode.fstream = s.fstream := by
  unfold State.finishDecode; split <;> rfl
@[simp] theorem State.finishDecode_pix (s : State) : s.finishDecode.pix = s.pix := by
  unfold State.finishDecode; split <;> rfl
@[simp] theorem State.finishDecode_pending (s : State) : s.finishDecode.pending = s.pending := by
  unfold State.finishDecode; split <;> rfl
@[simp] theorem State.finishDecode_hostData (s : State) : s.finishDecode.hostData = s.hostData := by
  unfold State.finishDecode; split <;> rfl
@[simp] theorem State.finishDecode_freeCount (s : State) : s.finishDecode.freeCount = s.freeCount := by
  unfold State.finishDecode; split <;> rfl
theorem State.finishDecode_status (s : State) :
    s.finishDecode.status = if s.y = s.cfg.height then .done else s.status := by
  unfold State.finishDecode; split <;> rfl

@[simp] theorem State.finishEncode_err (s : State) : s.finishEncode.err = s.err := by
  unfold State.finishEncode; split <;> rfl
@[simp] theorem State.finishEncode_errRow (s : State) : s.finishEncode.errRow = s.errRow := by
  unfold State.finishEncode; split <;> rfl
@[simp] theorem State.finishEncode_errInfo (s : State) : s.finishEncode.errInfo = s.errInfo := by
  unfold State.finishEncode; split <;> rfl
@[simp] theorem State.finishEncode_y (s : State) : s.finishEncode.y = s.y := by
  unfold State.finishEncode; split <;> rfl
@[simp] theorem State.finishEncode_ip (s : State) : s.finishEncode.ip = s.ip := by
  unfold State.finishEncode; split <;> rfl
@[simp] theorem State.finishEncode_ft (s : State) : s.finishEncode.ft = s.ft := by
  unfold State.finishEncode; split <;> rfl
@[simp] theorem State.finishEncode_bitDepthEff (s : State) : s.finishEncode.bitDepthEff = s.bitDepthEff := by
  unfold State.finishEncode; split <;> rfl
@[simp] theorem State.finishEncode_cur (s : State) : s.finishEncode.cur = s.cur := by
  unfold State.finishEncode; split <;> rfl
@[simp] theorem State.finishEncode_prev (s : State) : s.finishEncode.prev = s.prev := by
  unfold State.finishEncode; split <;> rfl
@[simp] theorem State.finishEncode_pal (s : State) : s.finishEncode.pal = s.pal := by
  unfold State.finishEncode; split <;> rfl
@[simp] theorem State.finishEncode_apal (s : State) : s.finishEncode.apal = s.apal := by
  unfold State.finishEncode; split <;> rfl
@[simp] theorem State.finishEncode_epal (s : State) : s.finishEncode.epal = s.epal := by
  unfold State.finishEncode; split <;> rfl
@[simp] theorem State.finishEncode_rmap (s : State) : s.finishEncode.rmap = s.rmap := by
  unfold State.finishEncode; split <;> rfl
@[simp] theorem State.finishEncode_fstream (s : State) : s.finishEncode.fstream = s.fstream := by
  unfold State.finishEncode; split <;> rfl
@[simp] theorem State.finishEncode_pix (s : State) : s.finishEncode.pix = s.pix := by
  unfold State.finishEncode; split <;> rfl
@[simp] theorem State.finishEncode_pending (s : State) : s.finishEncode.pending = s.pending := by
  unfold State.finishEncode; split <;> rfl
@[simp] theorem State.finishEncode_hostData (s : State) : s.finishEncode.hostData = s.hostData := by
  unfold State.finishEncode; split <;> rfl
@[simp] theorem State.finishEncode_freeCount (s : State) : s.finishEncode.freeCount = s.freeCount := by
  unfold State.finishEncode; split <;> rfl
theorem State.finishEncode_status (s : State) :
    s.finishEncode.status = if s.y = s.cfg.height then .done else s.status := by
  unfold State.finishEncode; split <;> rfl
theorem State.finishEncode_cfg (s : State) :
    s.finishEncode.cfg =
      if s.y = s.cfg.height then { s.cfg with fstreamLen := s.cfg.height.toNat * s.cfg.slen } else s.cfg := by
  unfold State.finishEncode; split <;> rfl

@[simp] theorem State.initRun_cfg (s : State) : (initRun s).cfg = s.cfg := rfl
@[simp] theorem State.initRun_cur (s : State) : (initRun s).cur = s.cur := rfl
@[simp] theorem State.initRun_pal (s : State) : (initRun s).pal = s.pal := rfl
@[simp] theorem State.initRun_apal (s : State) : (initRun s).apal = s.apal := rfl
@[simp] theorem State.initRun_fstream (s : State) : (initRun s).fstream = s.fstream := rfl
@[simp] theorem State.initRun_pix (s : State) : (initRun s).pix = s.pix := rfl
@[simp] theorem State.initRun_pending (s : State) : (initRun s).pending = s.pending := rfl
@[simp] theorem State.initRun_hostData (s : State) : (initRun s).hostData = s.hostData := rfl
@[simp] theorem State.initRun_freeCount (s : State) : (initRun s).freeCount = s.freeCount := rfl

@[simp] theorem State.initRun_status (s : State) : (initRun s).status = .running := rfl
@[simp] theorem State.initRun_err (s : State) : (initRun s).err = .none := rfl
@[simp] theorem State.initRun_y (s : State) : (initRun s).y = 0 := rfl
@[simp] theorem State.initRun_ip (s : State) : (initRun s).ip = 0 := rfl
@[simp] theorem State.initRun_prev (s : State) : (initRun s).prev = ⟨s.prev.tag, List.replicate s.cfg.rowb 0⟩ := rfl

@[simp] theorem State.outputPalette_status (s : State) : (outputPalette s).status = s.status := rfl
@[simp] theorem State.outputPalette_err (s : State) : (outputPalette s).err = s.err := rfl
@[simp] theorem State.outputPalette_errRow (s : State) : (outputPalette s).errRow = s.errRow := rfl
@[simp] theorem State.outputPalette_errInfo (s : State) : (outputPalette s).errInfo = s.errInfo := rfl
@[simp] theorem State.outputPalette_y (s : State) : (outputPalette s).y = s.y := rfl
@[simp] theorem State.outputPalette_ip (s : State) : (outputPalette s).ip = s.ip := rfl
@[simp] theorem State.outputPalette_ft (s : State) : (outputPalette s).ft = s.ft := rfl
@[simp] theorem State.outputPalette_bitDepthEff (s : State) : (outputPalette s).bitDepthEff = s.bitDepthEff := rfl
@[simp] theorem State.outputPalette_cur (s : State) : (outputPalette s).cur = s.cur := rfl
@[simp] theorem State.outputPalette_prev (s : State) : (outputPalette s).prev = s.prev := rfl
@[simp] theorem State.outputPalette_epal (s : State) : (outputPalette s).epal = s.epal := rfl
@[simp] theorem State.outputPalette_rmap (s : State) : (outputPalette s).rmap = s.rmap := rfl
@[simp] theorem State.outputPalette_fstream (s : State) : (outputPalette s).fstream = s.fstream := rfl
@[simp] theorem State.outputPalette_pix (s : State) : (outputPalette s).pix = s.pix := rfl
@[simp] theorem State.outputPalette_pending (s : State) : (outputPalette s).pending = s.pending := rfl
@[simp] theorem State.outputPalette_hostData (s : State) : (outputPalette s).hostData = s.hostData := rfl
@[simp] theorem State.outputPalette_freeCount (s : State) : (outputPalette s).freeCount = s.freeCount := rfl

end Sys2Proof.Machine
end

