-- ==== Sys2Proof/Laws/Ops.lean ====
section
/-! SUPPORT. The sparse stores: read after write, and that every write keeps the canonical form; what `andThen` can answer. -/

namespace Sys2Proof.Machine

variable {α : Type}

/-! ### Cells -/

theorem lookupCell_insertCell_same (k : Nat) (v : α) (cs : List (Nat × α)) : lookupCell k (insertCell k v cs) = some v := by
  induction cs with
  | nil => simp [insertCell, lookupCell]
  | cons c cs ih =>
    unfold insertCell
    split
    · simp [lookupCell]
    · split
      · simp [lookupCell]
      · have : c.1 ≠ k := fun h => by simp_all
        simp [lookupCell, this, ih]

theorem lookupCell_insertCell_other {k j : Nat} (v : α) (cs : List (Nat × α)) (h : j ≠ k) :
    lookupCell j (insertCell k v cs) = lookupCell j cs := by
  induction cs with
  | nil => simp [insertCell, lookupCell, h.symm]
  | cons c cs ih =>
    unfold insertCell
    split
    · simp [lookupCell, h.symm]
    · split
      · next hk => simp [lookupCell, h.symm, ← hk]
      · simp only [lookupCell, ih]

theorem mem_keys_insertCell {k j : Nat} (v : α) (cs : List (Nat × α)) (h : j ∈ (insertCell k v cs).map Prod.fst) :
    j = k ∨ j ∈ cs.map Prod.fst := by
  induction cs with
  | nil => simpa [insertCell] using h
  | cons c cs ih =>
    unfold insertCell at h
    split at h
    · simpa using h
    · split at h
      · rcases List.mem_cons.1 h with h | h
        · exact .inl h
        · exact .inr (List.mem_cons_of_mem _ h)
      · rcases List.mem_cons.1 h with h | h
        · exact .inr (by simp [h])
        · exact (ih h).imp id fun h => List.mem_cons_of_mem _ h

theorem insertCell_rising (k : Nat) (v : α) (cs : List (Nat × α)) (h : (cs.map Prod.fst).Pairwise (· < ·)) :
    ((insertCell k v cs).map Prod.fst).Pairwise (· < ·) := by
  induction cs with
  | nil => simp [insertCell]
  | cons c cs ih =>
    simp only [List.map_cons, List.pairwise_cons] at h
    unfold insertCell
    split
    · next hk =>
      simp only [List.map_cons, List.pairwise_cons, List.mem_cons]
      refine ⟨?_, h⟩
      rintro j (rfl | hj)
      · exact hk
      · exact hk.trans (h.1 j hj)
    · split
      · next hk =>
        simp only [List.map_cons, List.pairwise_cons]
        exact ⟨fun j hj => hk ▸ h.1 j hj, h.2⟩
      · simp only [List.map_cons, List.pairwise_cons]
        refine ⟨fun j hj => ?_, ih h.2⟩
        rcases mem_keys_insertCell v cs hj with rfl | hj
        · omega
        · exact h.1 j hj

/-! ### Stores -/

@[simp] theorem Store.write_tag (m : Store α) (k : Nat) (v : α) : (m.write k v).tag = m.tag := rfl

@[simp] theorem Store.get?_unwritten (t k : Nat) : (Store.unwritten t : Store α).get? k = none := rfl

theorem Store.get?_write_same (m : Store α) (k : Nat) (v : α) : (m.write k v).get? k = some v :=
  lookupCell_insertCell_same k v m.cells

theorem Store.get?_write_other (m : Store α) {k j : Nat} (v : α) (h : j ≠ k) : (m.write k v).get? j = m.get? j :=
  lookupCell_insertCell_other v m.cells h

@[simp] theorem Store.writeList_tag (m : Store α) (k : Nat) (vs : List α) : (m.writeList k vs).tag = m.tag := by
  induction vs generalizing m k with
  | nil => rfl
  | cons v vs ih => rw [Store.writeList, ih, Store.write_tag]

/-- A list of writes leaves every index before and after it alone. -/
theorem Store.get?_writeList_outside (m : Store α) (k : Nat) (vs : List α) {j : Nat} (h : j < k ∨ k + vs.length ≤ j) :
    (m.writeList k vs).get? j = m.get? j := by
  induction vs generalizing m k with
  | nil => rfl
  | cons v vs ih =>
    simp only [List.length_cons] at h
    rw [Store.writeList, ih _ _ (by omega), Store.get?_write_other _ _ (by omega)]

/-- A list of writes puts its elements at ascending indices. -/
theorem Store.get?_writeList_inside (m : Store α) (k : Nat) (vs : List α) {i : Nat} (h : i < vs.length) :
    (m.writeList k vs).get? (k + i) = vs[i]? := by
  induction vs generalizing m k i with
  | nil => simp at h
  | cons v vs ih =>
    rw [Store.writeList]
    cases i with
    | zero =>
      rw [Store.get?_writeList_outside _ _ _ (by omega), Nat.add_zero, Store.get?_write_same]
      rfl
    | succ i =>
      rw [show k + (i + 1) = k + 1 + i by omega, ih _ _ (by simpa using h)]
      simp

theorem Store.wf_unwritten (t : Nat) : (Store.unwritten t : Store α).wf := by simp [Store.unwritten, Store.wf]

theorem Store.wf_write {m : Store α} (k : Nat) (v : α) (h : m.wf) : (m.write k v).wf := insertCell_rising k v m.cells h

theorem Store.wf_writeList {m : Store α} (k : Nat) (vs : List α) (h : m.wf) : (m.writeList k vs).wf := by
  induction vs generalizing m k with
  | nil => exact h
  | cons v vs ih => exact ih _ (Store.wf_write k v h)

/-! ### Bytes -/

theorem Memory.byte_writeList_outside (m : Memory) (k : Nat) (bs : List Byte) {j : Nat} (h : j < k ∨ k + bs.length ≤ j) :
    Memory.byte (m.writeList k bs) j = Memory.byte m j := by
  unfold Memory.byte; rw [Store.get?_writeList_outside m k bs h, Store.writeList_tag]

theorem Memory.byte_writeList_inside (m : Memory) (k : Nat) (bs : List Byte) {i : Nat} (h : i < bs.length) :
    Memory.byte (m.writeList k bs) (k + i) = bs.getD i 0 := by
  unfold Memory.byte
  rw [Store.get?_writeList_inside m k bs h, List.getElem?_eq_getElem h]
  simp [List.getD, h]

theorem RowBuf.byte_of_lt (b : RowBuf) {i : Nat} (h : i < b.bytes.length) : b.byte i = b.bytes.getD i 0 := by
  simp [RowBuf.byte, List.getElem?_eq_getElem h, List.getD]

/-! ### Reads of the spaces after the state's writes -/

theorem State.readPix_writePix_outside (s : State) (a : Nat) (bs : List Byte) {j : Nat} (h : j < a ∨ a + bs.length ≤ j) :
    (s.writePix a bs).readPix j = s.readPix j := Memory.byte_writeList_outside s.pix a bs h

theorem State.readPix_writePix_inside (s : State) (a : Nat) (bs : List Byte) {i : Nat} (h : i < bs.length) :
    (s.writePix a bs).readPix (a + i) = bs.getD i 0 := Memory.byte_writeList_inside s.pix a bs h

theorem State.readFstream_writeFstream_outside (s : State) (a : Nat) (bs : List Byte) {j : Nat}
    (h : j < a ∨ a + bs.length ≤ j) : (s.writeFstream a bs).readFstream j = s.readFstream j :=
  Memory.byte_writeList_outside s.fstream a bs h

theorem State.readFstream_writeFstream_inside (s : State) (a : Nat) (bs : List Byte) {i : Nat} (h : i < bs.length) :
    (s.writeFstream a bs).readFstream (a + i) = bs.getD i 0 := Memory.byte_writeList_inside s.fstream a bs h

/-! ### Outcomes -/

@[simp] theorem andThen_next (s : State) (f : State → Host.Outcome State Fault Refusal) : andThen (.next s) f = f s := rfl

/-- The one way `andThen` answers a next state. -/
theorem andThen_eq_next {o : Host.Outcome State Fault Refusal} {f : State → Host.Outcome State Fault Refusal} {t : State}
    (h : andThen o f = .next t) : ∃ s, o = .next s ∧ f s = .next t := by
  cases o with
  | next s => exact ⟨s, rfl, h⟩
  | fault r => cases h
  | refused r => cases h

end Sys2Proof.Machine
end

