-- ==== Sys2Proof/Laws/Rows.lean ====
section
/-! SUPPORT. The row functions: length and element laws of recovered, filtered, unpacked and packed rows. -/

namespace Sys2Proof.Machine

/-! ### Recovered rows (40_unfilter R120 to R122) -/

@[simp] theorem recoverRow_length (pred : Predictor) (fu : Nat) (f up : Nat → Byte) (n : Nat) :
    (recoverRow pred fu f up n).length = n := by
  induction n with
  | zero => rfl
  | succ n ih => simp [recoverRow, ih]

/-- A longer recovery does not change the bytes already recovered. -/
theorem recoverRow_getD_of_le (pred : Predictor) (fu : Nat) (f up : Nat → Byte) {i m n : Nat} (hi : i < m) (h : m ≤ n) :
    (recoverRow pred fu f up n).getD i 0 = (recoverRow pred fu f up m).getD i 0 := by
  induction n with
  | zero => omega
  | succ n ih =>
    rcases Nat.lt_or_ge n m with hn | hn
    · rw [show m = n + 1 by omega]
    · rw [recoverRow, ← ih hn, List.getD_append _ _ _ _ (by simp; omega)]

/-- The recurrence of R120 and R121, read off the finished row. -/
theorem recoverRow_getD (pred : Predictor) {fu : Nat} (hfu : 0 < fu) (f up : Nat → Byte) {i n : Nat} (h : i < n) :
    (recoverRow pred fu f up n).getD i 0 =
      f i + pred (before (fun j => (recoverRow pred fu f up n).getD j 0) fu i) (up i) (before up fu i) := by
  have hb : before (fun j => (recoverRow pred fu f up n).getD j 0) fu i
      = before (fun j => (recoverRow pred fu f up i).getD j 0) fu i := by
    unfold before
    split
    · exact recoverRow_getD_of_le pred fu f up (by omega) h.le
    · rfl
  rw [hb, recoverRow_getD_of_le pred fu f up (Nat.lt_succ_self i) h, recoverRow,
    List.getD_append_right _ _ _ _ (by simp)]
  simp

/-- The recurrence without a unit of filtering, for predictors that do not look left (UNFILT.NONE and UNFILT.UP). -/
theorem recoverRow_getD_noLeft (pred : Predictor) (fu : Nat) (f up : Nat → Byte)
    (hp : ∀ a a' b c c', pred a b c = pred a' b c') {i n : Nat} (h : i < n) :
    (recoverRow pred fu f up n).getD i 0 = f i + pred 0 (up i) 0 := by
  rw [recoverRow_getD_of_le pred fu f up (Nat.lt_succ_self i) h, recoverRow, List.getD_append_right _ _ _ _ (by simp)]
  simp [hp _ 0 _ _ 0]

/-! ### Filtered rows (42_filter R171) -/

@[simp] theorem filteredRow_length (pred : Predictor) (s : State) : (filteredRow pred s).length = s.cfg.rowb := by
  simp [filteredRow]

theorem filteredRow_getD (pred : Predictor) (s : State) {i : Nat} (h : i < s.cfg.rowb) :
    (filteredRow pred s).getD i 0 = filteredByte pred s.cfg.fu s.cur.byte s.prev.byte i := by
  simp [filteredRow, List.getD, h]

/-! ### Rows of fixed-size groups -/

theorem flatMap_length_const {α β : Type} (f : α → List β) (k : Nat) (hf : ∀ x, (f x).length = k) (xs : List α) :
    (xs.flatMap f).length = xs.length * k := by
  induction xs with
  | nil => simp
  | cons x xs ih => simp [hf, ih, Nat.succ_mul, Nat.add_comm]

/-- Element `k * x + j` of a row of groups of `k` is element `j` of group `x`. -/
theorem flatMap_range_getD {β : Type} (f : Nat → List β) (k : Nat) (hf : ∀ x, (f x).length = k) (d : β) {n x j : Nat}
    (hx : x < n) (hj : j < k) : ((List.range n).flatMap f).getD (k * x + j) d = (f x).getD j d := by
  induction n with
  | zero => omega
  | succ n ih =>
    have hl : ((List.range n).flatMap f).length = n * k := by rw [flatMap_length_const f k hf]; simp
    rw [List.range_succ, List.flatMap_append]
    rcases Nat.lt_or_ge x n with h | h
    · rw [List.getD_append _ _ _ _ (by rw [hl]; nlinarith), ih h]
    · have hxn : x = n := by omega
      subst hxn
      rw [List.getD_append_right _ _ _ _ (by rw [hl, Nat.mul_comm]; omega)]
      simp [hl, Nat.mul_comm]

@[simp] theorem pixelBytes_length (p : Rgba) : (pixelBytes p).length = 4 := rfl

@[simp] theorem rowBytes_length (s : State) (pixel : Nat → Rgba) : (rowBytes s pixel).length = s.cfg.width.toNat * 4 := by
  rw [rowBytes, flatMap_length_const _ 4 (fun _ => rfl)]; simp

theorem rowBytes_getD (s : State) (pixel : Nat → Rgba) {x j : Nat} (hx : x < s.cfg.width.toNat) (hj : j < 4) :
    (rowBytes s pixel).getD (4 * x + j) 0 = (pixelBytes (pixel x)).getD j 0 :=
  flatMap_range_getD _ 4 (fun _ => rfl) 0 hx hj

/-! ### UNPACK rows (41_unpack R140) -/

/-- Byte `j` of pixel `x` of row Y after an UNPACK. -/
theorem unpackRow_readPix_inside (s : State) (pixel : Nat → Rgba) {x j : Nat} (hx : x < s.cfg.width.toNat) (hj : j < 4) :
    (unpackRow s pixel).readPix (pixelBase s.cfg x s.y.toNat + j) = (pixelBytes (pixel x)).getD j 0 := by
  have h : 4 * x + j < (rowBytes s pixel).length := by rw [rowBytes_length]; omega
  have e : pixelBase s.cfg x s.y.toNat + j = pixelBase s.cfg 0 s.y.toNat + (4 * x + j) := by
    simp only [pixelBase]; ring
  rw [e, unpackRow, State.readPix_writePix_inside _ _ _ h, rowBytes_getD s pixel hx hj]

/-- Every byte of PIX outside row Y stays. -/
theorem unpackRow_readPix_outside (s : State) (pixel : Nat → Rgba) {a : Nat}
    (h : a < pixelBase s.cfg 0 s.y.toNat ∨ pixelBase s.cfg 0 s.y.toNat + s.cfg.width.toNat * 4 ≤ a) :
    (unpackRow s pixel).readPix a = s.readPix a :=
  State.readPix_writePix_outside s _ _ (by rwa [rowBytes_length])

/-! ### FILT rows (42_filter R170) -/

theorem filterRow_readFstream_type (ft : Byte) (pred : Predictor) (s : State) :
    (filterRow ft pred s).readFstream s.ip = ft := by
  have := State.readFstream_writeFstream_inside s s.ip (ft :: filteredRow pred s) (i := 0) (by simp)
  simpa [filterRow] using this

theorem filterRow_readFstream_data (ft : Byte) (pred : Predictor) (s : State) {i : Nat} (h : i < s.cfg.rowb) :
    (filterRow ft pred s).readFstream (s.ip + 1 + i) = filteredByte pred s.cfg.fu s.cur.byte s.prev.byte i := by
  have := State.readFstream_writeFstream_inside s s.ip (ft :: filteredRow pred s) (i := i + 1) (by simp [h])
  rw [filterRow, show s.ip + 1 + i = s.ip + (i + 1) by omega, this, List.getD_cons_succ, filteredRow_getD pred s h]

theorem filterRow_readFstream_outside (ft : Byte) (pred : Predictor) (s : State) {a : Nat}
    (h : a < s.ip ∨ s.ip + s.cfg.slen ≤ a) : (filterRow ft pred s).readFstream a = s.readFstream a := by
  apply State.readFstream_writeFstream_outside
  rcases h with h | h
  · exact .inl h
  · right; simp [Cfg.slen] at h ⊢; omega

/-! ### PACK rows (43_pack R191, R192) -/

theorem packRow_length (s : State) (bytes : Rgba → List Byte) (k : Nat) (hk : ∀ p, (bytes p).length = k) :
    (packRow s bytes).cur.bytes.length = s.cfg.width.toNat * k := by
  simp only [packRow, State.setCur_cur]
  rw [flatMap_length_const _ k (fun x => hk _)]; simp

theorem packRow_getD (s : State) (bytes : Rgba → List Byte) (k : Nat) (hk : ∀ p, (bytes p).length = k) {x j : Nat}
    (hx : x < s.cfg.width.toNat) (hj : j < k) :
    (packRow s bytes).cur.bytes.getD (k * x + j) 0 = (bytes (readPixel s x s.y.toNat)).getD j 0 :=
  flatMap_range_getD (fun x => bytes (readPixel s x s.y.toNat)) k (fun _ => hk _) 0 hx hj

end Sys2Proof.Machine
end

