-- ==== Sys2Proof/Laws/Exec.lean ====
section
/-! SUPPORT. What each shared operation behind a meaning can do, said once: its effect on STATE and its frame; the inversions of
FETCH, the scanline steps, the engine's turn and the whole turn. -/

namespace Sys2Proof.Machine

/-! ### Frames of the shared operations -/

/-- UNFILT changes CUR alone. -/
theorem unfilter_frame (pred : Predictor) (s : State) : unfilter pred s = { s with cur := (unfilter pred s).cur } := rfl

/-- An UNPACK row changes PIX alone. -/
theorem unpackRow_frame (s : State) (pixel : Nat → Rgba) :
    unpackRow s pixel = { s with pix := (unpackRow s pixel).pix } := rfl

/-- FILT changes FSTREAM alone. -/
theorem filterRow_frame (ft : Byte) (pred : Predictor) (s : State) :
    filterRow ft pred s = { s with fstream := (filterRow ft pred s).fstream } := rfl

/-- A PACK row changes RAW alone. -/
theorem packRow_frame (s : State) (bytes : Rgba → List Byte) :
    packRow s bytes = { s with cur := (packRow s bytes).cur } := rfl

/-- An indexed UNPACK either raises PaletteIndexRange at the first bad index or writes the row. -/
theorem unpackIndexed_cases (s : State) (index : Nat → Byte) :
    (∃ x, firstBadIndex s index = some x ∧
      unpackIndexed s index = s.raise .paletteIndexRange s.y ((index x).setWidth 32)) ∨
    (firstBadIndex s index = none ∧ unpackIndexed s index = unpackRow s fun x => palPixel s (index x)) := by
  unfold unpackIndexed
  split
  · next x h => exact .inl ⟨x, h, rfl⟩
  · next h => exact .inr ⟨h, rfl⟩

/-- What a UNFILT operation does: it recovers the row under some predictor. -/
theorem exec_of_decodeUnfilt {ft : Byte} {i : Instr} (h : decodeUnfilt ft = .ok i) (s : State) :
    ∃ pred, exec i s = .next (unfilter pred s) := by
  unfold decodeUnfilt at h
  split at h <;> cases h
  · exact ⟨predNone, rfl⟩
  · exact ⟨predSub, rfl⟩
  · exact ⟨predUp, rfl⟩
  · exact ⟨predAvg, rfl⟩
  · exact ⟨paeth, rfl⟩

/-- What a FILT operation does: it writes the scanline of some filter type and predictor. -/
theorem exec_of_decodeFilt {ft : Byte} {i : Instr} (h : decodeFilt ft = .ok i) (s : State) :
    ∃ b pred, exec i s = .next (filterRow b pred s) := by
  unfold decodeFilt at h
  split at h <;> cases h
  · exact ⟨0, predNone, rfl⟩
  · exact ⟨1, predSub, rfl⟩
  · exact ⟨2, predUp, rfl⟩
  · exact ⟨3, predAvg, rfl⟩
  · exact ⟨4, paeth, rfl⟩

/-- What an UNPACK operation does: it writes a row of PIX, or raises PaletteIndexRange. -/
theorem exec_of_decodeUnpack {bd ct : Byte} {i : Instr} (h : decodeUnpack bd ct = .ok i) (s : State) :
    (∃ pixel, exec i s = .next (unpackRow s pixel)) ∨
    (∃ v, exec i s = .next (s.raise .paletteIndexRange s.y v)) := by
  have hidx : ∀ index, (∃ pixel, Host.Outcome.next (unpackIndexed s index) = (.next (unpackRow s pixel) : Host.Outcome State Fault Refusal)) ∨
      (∃ v, Host.Outcome.next (unpackIndexed s index) =
        (.next (s.raise .paletteIndexRange s.y v) : Host.Outcome State Fault Refusal)) := by
    intro index
    rcases unpackIndexed_cases s index with ⟨x, _, hx⟩ | ⟨_, hx⟩
    · exact .inr ⟨_, by rw [hx]⟩
    · exact .inl ⟨_, by rw [hx]⟩
  unfold decodeUnpack at h
  split at h <;> cases h
  all_goals first
    | exact hidx _
    | exact .inl ⟨_, rfl⟩

/-- What a PACK operation does: it fills RAW, or raises PaletteMiss. -/
theorem exec_of_decodePack {bd ct : Byte} {i : Instr} (h : decodePack bd ct = .ok i) (s : State) :
    (∃ row, exec i s = .next (s.setCur row)) ∨ (∃ v, exec i s = .next (s.raise .paletteMiss s.y v)) := by
  unfold decodePack at h
  split at h
  · split at h <;> cases h
    exact .inl ⟨_, rfl⟩
  · split at h <;> cases h
    exact .inl ⟨_, rfl⟩
  · split at h <;> cases h
    show (∃ row, execPackIdx8 bd s = _) ∨ (∃ v, execPackIdx8 bd s = _)
    unfold execPackIdx8
    split
    · exact .inr ⟨_, rfl⟩
    · exact .inl ⟨_, rfl⟩
  · cases h

/-- The decoder on one byte or two, by context. -/
@[simp] theorem decode_scanline_decode (ft : Byte) : decode (.scanline .decode) [ft] = (decodeUnfilt ft).map (·, []) := rfl
@[simp] theorem decode_scanline_encode (ft : Byte) : decode (.scanline .encode) [ft] = (decodeFilt ft).map (·, []) := rfl
@[simp] theorem decode_mode_decode (bd ct : Byte) : decode (.mode .decode) [bd, ct] = (decodeUnpack bd ct).map (·, []) := rfl
@[simp] theorem decode_mode_encode (bd ct : Byte) : decode (.mode .encode) [bd, ct] = (decodePack bd ct).map (·, []) := rfl
@[simp] theorem decode_command (c : Byte) : decode .command [c] = (decodeCommand c).map (·, []) := rfl

/-! ### FETCH (44_control R227) -/

/-- What FETCH can answer. -/
theorem fetch_cases (s : State) :
    (∃ k v, k ≠ .none ∧ fetch s = .error (s.raise k s.y v)) ∨
    (∃ ft k v, k ≠ .none ∧ fetch s = .error ({ s with ft := ft }.raise k s.y v)) ∨
    (∃ i ft, decodeUnfilt ft = .ok i ∧ ft = s.readFstream s.ip ∧ s.ip + s.cfg.slen ≤ s.cfg.fstreamLen ∧
      fetch s = .ok (i, { s with ft := ft })) := by
  unfold fetch
  split
  · exact .inl ⟨.truncated, _, by decide, rfl⟩
  · simp only [decode_scanline_decode]
    cases h : decodeUnfilt (s.readFstream s.ip) with
    | error e => exact .inr (.inl ⟨_, .badFilter, _, by decide, rfl⟩)
    | ok i =>
      simp only [Except.map]
      split
      · exact .inr (.inl ⟨_, .truncated, _, by decide, rfl⟩)
      · exact .inr (.inr ⟨i, _, h, rfl, by omega, rfl⟩)

/-- A mode word that names no operation reports a fault. -/
theorem decodeErrorKind_unpack_ne_none {bd ct : Byte} {e : DecodeError} (h : decodeUnpack bd ct = .error e) :
    decodeErrorKind e ≠ .none := by
  unfold decodeUnpack at h
  split at h <;> cases h <;> simp [decodeErrorKind]

theorem decodeErrorKind_pack_ne_none {bd ct : Byte} {e : DecodeError} (h : decodePack bd ct = .error e) :
    decodeErrorKind e ≠ .none := by
  unfold decodePack at h
  split at h
  · split at h <;> cases h
    simp [decodeErrorKind]
  · split at h <;> cases h
    simp [decodeErrorKind]
  · split at h <;> cases h
    simp [decodeErrorKind]
  · cases h; simp [decodeErrorKind]

theorem decodeErrorKind_filt_ne_none {ft : Byte} {e : DecodeError} (h : decodeFilt ft = .error e) :
    decodeErrorKind e ≠ .none := by
  unfold decodeFilt at h
  split at h <;> cases h
  simp [decodeErrorKind]

/-! ### The scanline steps (44_control R228, R229) -/

/-- What DECODE_STEP can answer: a fault raised at row Y over a state that differs from `s` in FT and CUR alone, or the finished
row over such a state. -/
theorem decodeStep_cases (s : State) :
    (∃ ft cur k v, k ≠ .none ∧ decodeStep s = .next ({ s with ft := ft, cur := cur }.raise k s.y v)) ∨
    (∃ ft pred pixel, s.ip + s.cfg.slen ≤ s.cfg.fstreamLen ∧ ft = s.readFstream s.ip ∧
      decodeStep s = .next (endDecodeRow (unpackRow (unfilter pred { s with ft := ft }) pixel))) := by
  unfold decodeStep
  rcases fetch_cases s with ⟨k, v, hk, h⟩ | ⟨ft, k, v, hk, h⟩ | ⟨i, ft, hi, hft, hlen, h⟩
  · rw [h]; exact .inl ⟨s.ft, s.cur, k, v, hk, rfl⟩
  · rw [h]; exact .inl ⟨ft, s.cur, k, v, hk, rfl⟩
  · rw [h]
    obtain ⟨pred, hp⟩ := exec_of_decodeUnfilt hi { s with ft := ft }
    simp only [hp, andThen_next, decode_mode_decode]
    cases hm : decodeUnpack (unfilter pred { s with ft := ft }).cfg.bitDepth (unfilter pred { s with ft := ft }).cfg.colorType with
    | error e => exact .inl ⟨ft, _, .badBitDepth, 0, by decide, rfl⟩
    | ok m =>
      simp only [Except.map]
      rcases exec_of_decodeUnpack hm (unfilter pred { s with ft := ft }) with ⟨pixel, hx⟩ | ⟨v, hx⟩
      · rw [hx]; exact .inr ⟨ft, pred, pixel, hlen, hft, rfl⟩
      · rw [hx]
        refine .inl ⟨ft, (unfilter pred { s with ft := ft }).cur, .paletteIndexRange, v, by decide, ?_⟩
        simp only [andThen_next, endDecodeRow, State.raise_status, reduceCtorEq, if_false]
        rfl

/-- What ENCODE_SCANLINE can answer. -/
theorem encodeScanline_cases (s : State) :
    (∃ ft k v, k ≠ .none ∧ encodeScanline s = .next ({ s with ft := ft }.raise k s.y v)) ∨
    (∃ ft b pred, encodeScanline s = .next (filterRow b pred { s with ft := ft }).nextRow.finishEncode) := by
  unfold encodeScanline
  simp only [decode_scanline_encode]
  cases h : decodeFilt (chooseFilter s) with
  | error e => exact .inl ⟨_, _, _, decodeErrorKind_filt_ne_none h, rfl⟩
  | ok i =>
    obtain ⟨b, pred, hp⟩ := exec_of_decodeFilt h { s with ft := chooseFilter s }
    simp only [Except.map, hp, andThen_next]
    exact .inr ⟨_, b, pred, rfl⟩

/-- What ENCODE_STEP can answer while Running. -/
theorem encodeStep_cases (s : State) (hs : s.status = .running) :
    (∃ ft cur k v, k ≠ .none ∧ encodeStep s = .next ({ s with ft := ft, cur := cur }.raise k s.y v)) ∨
    (∃ ft row b pred,
      encodeStep s = .next (filterRow b pred { s.setCur row with ft := ft }).nextRow.finishEncode) := by
  unfold encodeStep
  simp only [decode_mode_encode]
  cases h : decodePack s.cfg.bitDepth s.cfg.colorType with
  | error e => exact .inl ⟨s.ft, s.cur, _, _, decodeErrorKind_pack_ne_none h, rfl⟩
  | ok m =>
    simp only [Except.map]
    rcases exec_of_decodePack h s with ⟨row, hx⟩ | ⟨v, hx⟩
    · rw [hx]
      rw [andThen_next, if_pos (by exact hs)]
      rcases encodeScanline_cases (s.setCur row) with ⟨ft, k, v, hk, he⟩ | ⟨ft, b, pred, he⟩
      · exact .inl ⟨ft, (s.setCur row).cur, k, v, hk, by rw [he]; rfl⟩
      · exact .inr ⟨ft, row, b, pred, he⟩
    · rw [hx]
      refine .inl ⟨s.ft, s.cur, .paletteMiss, v, by decide, ?_⟩
      simp only [andThen_next, State.raise_status, reduceCtorEq, if_false]

/-- The engine's turn always answers a next state (70_reset_and_hazards R297). -/
theorem engineStep_total (s : State) : ∃ t, engineStep s = .next t := by
  unfold engineStep
  split
  · next hs =>
    split
    · rcases decodeStep_cases s with ⟨_, _, _, _, _, h⟩ | ⟨_, _, _, _, _, h⟩ <;> exact ⟨_, h⟩
    · rcases encodeStep_cases s hs with ⟨_, _, _, _, _, h⟩ | ⟨_, _, _, _, h⟩ <;> exact ⟨_, h⟩
  all_goals exact ⟨s, rfl⟩

/-- While Running with DIR = 0 the engine's turn is DECODE_STEP (44_control R226). -/
theorem engineStep_decode {s : State} (hs : s.status = .running) (hd : s.cfg.direction = .decode) :
    engineStep s = decodeStep s := by
  unfold engineStep; rw [hs]; simp only [hd]

/-- While Running with DIR = 1 it is ENCODE_STEP. -/
theorem engineStep_encode {s : State} (hs : s.status = .running) (hd : s.cfg.direction = .encode) :
    engineStep s = encodeStep s := by
  unfold engineStep; rw [hs]; simp only [hd]

/-- In the decode direction a raise leaves nothing of PIX, so it does not matter what PIX held (60_exceptions R252). -/
theorem raise_withPix {s : State} (hd : s.cfg.direction = .decode) (m : Memory) (k : ErrKind) (row info : BitVec 32) :
    State.raise { s with pix := m } k row info = s.raise k row info := by
  simp only [State.raise, State.scrambleOutput, hd]

/-- In a STATE other than Running the engine takes no step (44_control R226). -/
theorem engineStep_not_running {s : State} (h : s.status ≠ .running) : engineStep s = .next s := by
  unfold engineStep
  split <;> first | contradiction | rfl

end Sys2Proof.Machine
end

