-- ==== Sys2Proof/Laws/Palette.lean ====
section
/-! SUPPORT. RMAP as a map: what a lookup gives after a key is set and after values are re-pointed (43_pack R202). -/

namespace Sys2Proof.Machine

/-- Looking up through re-pointed values. -/
theorem rmapLookup_map (c : Rgba) (f : Rgba → Rgba) (m : List (Rgba × Rgba)) :
    rmapLookup c (m.map fun e => (e.1, f e.2)) = (rmapLookup c m).map f := by
  induction m with
  | nil => rfl
  | cons x xs ih => simp only [List.map_cons, rmapLookup]; split <;> simp_all

/-- A key that has been set. -/
theorem rmapLookup_rmapSet_same (k v : Rgba) (m : List (Rgba × Rgba)) : rmapLookup k (rmapSet k v m) = some v := by
  unfold rmapSet
  induction m with
  | nil => simp [rmapLookup]
  | cons x xs ih =>
    by_cases h : x.1 = k
    · simpa [h] using ih
    · simpa [h, rmapLookup] using ih

/-- Every other key keeps its value. -/
theorem rmapLookup_rmapSet_other {k c : Rgba} (h : c ≠ k) (v : Rgba) (m : List (Rgba × Rgba)) :
    rmapLookup c (rmapSet k v m) = rmapLookup c m := by
  unfold rmapSet
  induction m with
  | nil => simp [rmapLookup, h.symm]
  | cons x xs ih =>
    by_cases hx : x.1 = k
    · simpa [hx, rmapLookup, h.symm] using ih
    · by_cases hc : x.1 = c <;> simp_all [rmapLookup]

end Sys2Proof.Machine
end

