-- ==== Sys2Proof/Laws/PerInstr.lean ====
section
/-! SUPPORT. One family of per-instruction lemmas: the encoder's word of a well-formed operation is a word of its row of
spec/opcode_table.json. -/

/-- Width in bits, match and mask of an operation's row of spec/opcode_table.json. -/
def Sys2Proof.Laws.WordMatchesTable.row : Sys2Proof.Instr → Nat × Nat × Nat
  | .unfiltNone => (8, 0x00, 0xFF)
  | .unfiltSub => (8, 0x01, 0xFF)
  | .unfiltUp => (8, 0x02, 0xFF)
  | .unfiltAvg => (8, 0x03, 0xFF)
  | .unfiltPaeth => (8, 0x04, 0xFF)
  | .filtNone => (8, 0x00, 0xFF)
  | .filtSub => (8, 0x01, 0xFF)
  | .filtUp => (8, 0x02, 0xFF)
  | .filtAvg => (8, 0x03, 0xFF)
  | .filtPaeth => (8, 0x04, 0xFF)
  | .unpackG1 => (16, 0x0100, 0xFFFF)
  | .unpackG2 => (16, 0x0200, 0xFFFF)
  | .unpackG4 => (16, 0x0400, 0xFFFF)
  | .unpackG8 => (16, 0x0800, 0xFFFF)
  | .unpackG16 => (16, 0x1000, 0xFFFF)
  | .unpackRgb8 => (16, 0x0802, 0xFFFF)
  | .unpackRgb16 => (16, 0x1002, 0xFFFF)
  | .unpackP1 => (16, 0x0103, 0xFFFF)
  | .unpackP2 => (16, 0x0203, 0xFFFF)
  | .unpackP4 => (16, 0x0403, 0xFFFF)
  | .unpackP8 => (16, 0x0803, 0xFFFF)
  | .unpackGa8 => (16, 0x0804, 0xFFFF)
  | .unpackGa16 => (16, 0x1004, 0xFFFF)
  | .unpackRgba8 => (16, 0x0806, 0xFFFF)
  | .unpackRgba16 => (16, 0x1006, 0xFFFF)
  | .packRgba8 => (16, 0x0806, 0xFFFF)
  | .packRgb8 => (16, 0x0802, 0xFFFF)
  | .packIdx8 _ => (16, 0x0003, 0x00FF)
  | .nop => (8, 0x00, 0xFF)
  | .start => (8, 0x01, 0xFF)
  | .reset => (8, 0x02, 0xFF)

/-- A word's bytes as the table numbers them: a mode word has BIT_DEPTH, its first byte, in bits 15..8 (30_encoding R98). -/
def Sys2Proof.Laws.WordMatchesTable.word (bytes : List Sys2Proof.Byte) : Nat := bytes.foldl (fun w b => w * 256 + b.toNat) 0

/-- The word of a well-formed operation has its row's width, and under the row's mask it is the row's match (30_encoding R92, R99,
R101, R105). -/
def Sys2Proof.Laws.WordMatchesTable.Statement (i : Sys2Proof.Instr) : Prop :=
  i.wellFormed = true →
    (Sys2Proof.encode i).length * 8 = (Sys2Proof.Laws.WordMatchesTable.row i).1 ∧
    Sys2Proof.Laws.WordMatchesTable.word (Sys2Proof.encode i) &&& (Sys2Proof.Laws.WordMatchesTable.row i).2.2
      = (Sys2Proof.Laws.WordMatchesTable.row i).2.1

theorem Sys2Proof.Laws.WordMatchesTable.unfiltNone : Sys2Proof.Laws.WordMatchesTable.Statement .unfiltNone := fun _ => ⟨rfl, rfl⟩

theorem Sys2Proof.Laws.WordMatchesTable.unfiltSub : Sys2Proof.Laws.WordMatchesTable.Statement .unfiltSub := fun _ => ⟨rfl, rfl⟩

theorem Sys2Proof.Laws.WordMatchesTable.unfiltUp : Sys2Proof.Laws.WordMatchesTable.Statement .unfiltUp := fun _ => ⟨rfl, rfl⟩

theorem Sys2Proof.Laws.WordMatchesTable.unfiltAvg : Sys2Proof.Laws.WordMatchesTable.Statement .unfiltAvg := fun _ => ⟨rfl, rfl⟩

theorem Sys2Proof.Laws.WordMatchesTable.unfiltPaeth : Sys2Proof.Laws.WordMatchesTable.Statement .unfiltPaeth := fun _ => ⟨rfl, rfl⟩

theorem Sys2Proof.Laws.WordMatchesTable.filtNone : Sys2Proof.Laws.WordMatchesTable.Statement .filtNone := fun _ => ⟨rfl, rfl⟩

theorem Sys2Proof.Laws.WordMatchesTable.filtSub : Sys2Proof.Laws.WordMatchesTable.Statement .filtSub := fun _ => ⟨rfl, rfl⟩

theorem Sys2Proof.Laws.WordMatchesTable.filtUp : Sys2Proof.Laws.WordMatchesTable.Statement .filtUp := fun _ => ⟨rfl, rfl⟩

theorem Sys2Proof.Laws.WordMatchesTable.filtAvg : Sys2Proof.Laws.WordMatchesTable.Statement .filtAvg := fun _ => ⟨rfl, rfl⟩

theorem Sys2Proof.Laws.WordMatchesTable.filtPaeth : Sys2Proof.Laws.WordMatchesTable.Statement .filtPaeth := fun _ => ⟨rfl, rfl⟩

theorem Sys2Proof.Laws.WordMatchesTable.unpackG1 : Sys2Proof.Laws.WordMatchesTable.Statement .unpackG1 := fun _ => ⟨rfl, rfl⟩

theorem Sys2Proof.Laws.WordMatchesTable.unpackG2 : Sys2Proof.Laws.WordMatchesTable.Statement .unpackG2 := fun _ => ⟨rfl, rfl⟩

theorem Sys2Proof.Laws.WordMatchesTable.unpackG4 : Sys2Proof.Laws.WordMatchesTable.Statement .unpackG4 := fun _ => ⟨rfl, rfl⟩

theorem Sys2Proof.Laws.WordMatchesTable.unpackG8 : Sys2Proof.Laws.WordMatchesTable.Statement .unpackG8 := fun _ => ⟨rfl, rfl⟩

theorem Sys2Proof.Laws.WordMatchesTable.unpackG16 : Sys2Proof.Laws.WordMatchesTable.Statement .unpackG16 := fun _ => ⟨rfl, rfl⟩

theorem Sys2Proof.Laws.WordMatchesTable.unpackRgb8 : Sys2Proof.Laws.WordMatchesTable.Statement .unpackRgb8 := fun _ => ⟨rfl, rfl⟩

theorem Sys2Proof.Laws.WordMatchesTable.unpackRgb16 : Sys2Proof.Laws.WordMatchesTable.Statement .unpackRgb16 := fun _ => ⟨rfl, rfl⟩

theorem Sys2Proof.Laws.WordMatchesTable.unpackP1 : Sys2Proof.Laws.WordMatchesTable.Statement .unpackP1 := fun _ => ⟨rfl, rfl⟩

theorem Sys2Proof.Laws.WordMatchesTable.unpackP2 : Sys2Proof.Laws.WordMatchesTable.Statement .unpackP2 := fun _ => ⟨rfl, rfl⟩

theorem Sys2Proof.Laws.WordMatchesTable.unpackP4 : Sys2Proof.Laws.WordMatchesTable.Statement .unpackP4 := fun _ => ⟨rfl, rfl⟩

theorem Sys2Proof.Laws.WordMatchesTable.unpackP8 : Sys2Proof.Laws.WordMatchesTable.Statement .unpackP8 := fun _ => ⟨rfl, rfl⟩

theorem Sys2Proof.Laws.WordMatchesTable.unpackGa8 : Sys2Proof.Laws.WordMatchesTable.Statement .unpackGa8 := fun _ => ⟨rfl, rfl⟩

theorem Sys2Proof.Laws.WordMatchesTable.unpackGa16 : Sys2Proof.Laws.WordMatchesTable.Statement .unpackGa16 := fun _ => ⟨rfl, rfl⟩

theorem Sys2Proof.Laws.WordMatchesTable.unpackRgba8 : Sys2Proof.Laws.WordMatchesTable.Statement .unpackRgba8 := fun _ => ⟨rfl, rfl⟩

theorem Sys2Proof.Laws.WordMatchesTable.unpackRgba16 : Sys2Proof.Laws.WordMatchesTable.Statement .unpackRgba16 := fun _ => ⟨rfl, rfl⟩

theorem Sys2Proof.Laws.WordMatchesTable.packRgba8 : Sys2Proof.Laws.WordMatchesTable.Statement .packRgba8 := fun _ => ⟨rfl, rfl⟩

theorem Sys2Proof.Laws.WordMatchesTable.packRgb8 : Sys2Proof.Laws.WordMatchesTable.Statement .packRgb8 := fun _ => ⟨rfl, rfl⟩

theorem Sys2Proof.Laws.WordMatchesTable.packIdx8 (bitDepth : Sys2Proof.Byte) :
    Sys2Proof.Laws.WordMatchesTable.Statement (.packIdx8 bitDepth) := by
  intro h
  have hb : bitDepth ∈ Sys2Proof.idx8Depths := by simpa [Sys2Proof.Instr.wellFormed] using h
  revert hb
  have key : ∀ b ∈ Sys2Proof.idx8Depths,
      Sys2Proof.Laws.WordMatchesTable.word (Sys2Proof.encode (.packIdx8 b)) &&& 0xFF = 3 := by decide
  exact fun hb => ⟨rfl, key bitDepth hb⟩

theorem Sys2Proof.Laws.WordMatchesTable.nop : Sys2Proof.Laws.WordMatchesTable.Statement .nop := fun _ => ⟨rfl, rfl⟩

theorem Sys2Proof.Laws.WordMatchesTable.start : Sys2Proof.Laws.WordMatchesTable.Statement .start := fun _ => ⟨rfl, rfl⟩

theorem Sys2Proof.Laws.WordMatchesTable.reset : Sys2Proof.Laws.WordMatchesTable.Statement .reset := fun _ => ⟨rfl, rfl⟩
end

