-- ==== Sys2Proof/Laws/Script.lean ====
section
/-! SUPPORT. How many table writes a script line stands for. -/

namespace Sys2Proof.Machine

@[simp] theorem palWrites_length (k : Nat) (cs : List Rgb) : (palWrites k cs).length = cs.length := by
  induction cs generalizing k with
  | nil => rfl
  | cons c cs ih => simp [palWrites, ih]

@[simp] theorem apalWrites_length (k : Nat) (as : List Byte) : (apalWrites k as).length = as.length := by
  induction as generalizing k with
  | nil => rfl
  | cons a as ih => simp [apalWrites, ih]

/-- A `.trns idx` line loads at most 256 entries and says so in APAL_LEN (10_state R35). -/
theorem lineMoves_trnsIdx (auto : Bool) (f p : Nat) (as : List Byte) :
    lineMoves auto f p (.trnsIdx as) =
      .regWrite 7 3 :: apalWrites 0 (as.take 256) ++ [.regWrite 13 (min 256 as.length)] := by
  rw [← List.length_take]
  rfl

end Sys2Proof.Machine
end

