-- ==== Sys2Proof/Laws/Step.lean ====
section
/-! SUPPORT. What the commands, a host move and a whole step can answer, each said once. -/

namespace Sys2Proof.Machine

/-! ### START (44_control R223 to R225, 43_pack R195) -/

/-- The prelude's last steps write the palette, or raise BadPalette (43_pack R201, R206). -/
theorem limitPalette_cases (s : State) (limit : Nat) :
    (s.epal.length ≤ limit ∧ limitPalette s limit = outputPalette s) ∨
    (limit < s.epal.length ∧ s.cfg.reduce = 1 ∧
      limitPalette s limit = outputPalette
        { s with
          epal := (reducePalette (s.epal.length - limit) (s.epal, s.rmap)).1
          rmap := (reducePalette (s.epal.length - limit) (s.epal, s.rmap)).2 }) ∨
    (limit < s.epal.length ∧ s.cfg.reduce ≠ 1 ∧ limitPalette s limit = s.raise .badPalette 0 0) := by
  unfold limitPalette
  split
  · next h => exact .inl ⟨h, rfl⟩
  · next h =>
    split
    · next hr => exact .inr (.inl ⟨by omega, hr, rfl⟩)
    · next hr => exact .inr (.inr ⟨by omega, hr, rfl⟩)

/-- The state the prelude's limit is applied to. -/
def scannedState (s : State) (epal : List Rgba) : State :=
  { initRun s with epal := epal, rmap := [], bitDepthEff := effectiveDepth s.cfg.bitDepth epal.length }

/-- What an accepted START can answer. -/
theorem acceptStart_cases {s t : State} (h : acceptStart s = .next t) :
    (¬(s.cfg.direction = .encode ∧ s.cfg.colorType = 3) ∧ t = initRun s) ∨
    (s.cfg.direction = .encode ∧ s.cfg.colorType = 3 ∧
      ∃ epal, scanPalette Config.epalCap [] (allPixels (initRun s)) = some epal ∧
        t = limitPalette (scannedState s epal) (paletteLimit s.cfg (effectiveDepth s.cfg.bitDepth epal.length))) := by
  unfold acceptStart at h
  split at h
  · next hc =>
    unfold idx8Prelude at h
    split at h
    · cases h
    · next epal he =>
      injection h with h
      exact .inr ⟨hc.1, hc.2, epal, he, h.symm⟩
  · next hc =>
    injection h with h
    exact .inl ⟨hc, h.symm⟩

/-- What START can answer. -/
theorem execStart_cases {s t : State} (h : execStart s = .next t) :
    ((s.status = .running ∨ s.status = .faulted) ∧ t = s) ∨
    (s.status ≠ .running ∧ s.status ≠ .faulted ∧ ∃ k, startCheck s.cfg = some k ∧ t = s.raise k 0 0) ∨
    (s.status ≠ .running ∧ s.status ≠ .faulted ∧ startCheck s.cfg = none ∧ acceptStart s = .next t) := by
  unfold execStart at h
  split at h
  · next hs => injection h with h; exact .inl ⟨.inl hs, h.symm⟩
  · next hs => injection h with h; exact .inl ⟨.inr hs, h.symm⟩
  all_goals
    next hs =>
    split at h
    · next k hk => injection h with h; exact .inr (.inl ⟨by simp [hs], by simp [hs], k, hk, h.symm⟩)
    · next hk => exact .inr (.inr ⟨by simp [hs], by simp [hs], hk, h⟩)

/-- A check of START that fails names a fault (44_control R224). -/
theorem startCheck_ne_none {c : Cfg} {k : ErrKind} (h : startCheck c = some k) : k ≠ .none := by
  unfold startCheck at h
  split at h
  · cases h; decide
  split at h
  · cases h; decide
  split at h
  · cases h; decide
  split at h
  · unfold checkDecode at h
    simp only [decode_mode_decode] at h
    cases hd : decodeUnpack c.bitDepth c.colorType with
    | error e =>
      rw [hd] at h; simp only [Except.map, Option.some.injEq] at h
      exact h ▸ decodeErrorKind_unpack_ne_none hd
    | ok i =>
      rw [hd] at h; simp only [Except.map] at h
      split at h
      · cases h; decide
      split at h
      · cases h; decide
      split at h
      · cases h; decide
      · cases h
  · unfold checkEncode at h
    simp only [decode_mode_encode] at h
    cases hd : decodePack c.bitDepth c.colorType with
    | error e =>
      rw [hd] at h; simp only [Except.map, Option.some.injEq] at h
      exact h ▸ decodeErrorKind_pack_ne_none hd
    | ok i =>
      rw [hd] at h; simp only [Except.map] at h
      split at h
      · cases h; decide
      split at h
      · cases h; decide
      · cases h

/-! ### Commands and host moves -/

/-- What a command can do (30_encoding R105). -/
theorem hostCommand_cases {s t : State} {code : Byte} (h : hostCommand s code = .next t) :
    t = s ∨ execStart s = .next t ∨ t = resetState s := by
  unfold hostCommand at h
  rw [decode_command] at h
  cases hd : decodeCommand code with
  | error e => rw [hd] at h; cases h
  | ok i =>
    rw [hd] at h
    simp only [Except.map] at h
    unfold decodeCommand at hd
    split at hd <;> cases hd
    · injection h with h; exact .inl h.symm
    · exact .inr (.inl h)
    · injection h with h; exact .inr (.inr h.symm)

/-- The ways a step changes the state, all but the engine's own. -/
inductive HostEffect (s : State) : State → Prop
  /-- Nothing changes. -/
  | nothing : HostEffect s s
  /-- An RW register is written, not while Running. -/
  | config (c : Cfg) (h : s.status ≠ .running) : HostEffect s { s with cfg := c }
  /-- A PAL entry is written, not while Running. -/
  | pal (k : Nat) (c : Rgb) (h : s.status ≠ .running) : HostEffect s { s with pal := s.pal.write k c }
  /-- An APAL entry is written, not while Running. -/
  | apal (k : Nat) (a : Byte) (h : s.status ≠ .running) : HostEffect s { s with apal := s.apal.write k a }
  /-- A byte of FSTREAM is written, not while Running. -/
  | fstream (a : Nat) (b : Byte) (h : s.status ≠ .running) : HostEffect s (s.writeFstream a [b])
  /-- A byte of PIX is written, not while Running. -/
  | pix (a : Nat) (b : Byte) (h : s.status ≠ .running) : HostEffect s (s.writePix a [b])
  /-- The host reads something; a free value may be used up. -/
  | read (d : HostData) (n : Nat) (h : s.freeCount ≤ n) : HostEffect s { s with hostData := d, freeCount := n }
  /-- START. -/
  | start (t : State) (h : execStart s = .next t) : HostEffect s t
  /-- RESET. -/
  | reset : HostEffect s (resetState s)

theorem HostEffect.of_command {s t : State} {code : Byte} (h : hostCommand s code = .next t) : HostEffect s t := by
  rcases hostCommand_cases h with rfl | h | rfl
  · exact .nothing
  · exact .start t h
  · exact .reset

theorem HostEffect.of_byteRead (s : State) (m : Memory) (o : Bool) (a : Nat) : HostEffect s (hostByteRead s m o a) := by
  unfold hostByteRead
  split
  · exact .read _ _ (Nat.le_succ _)
  · exact .read _ s.freeCount le_rfl

/-- What a host move can do, an engine turn apart. -/
theorem hostMove_cases {m : HostMove} {s t : State} (h : hostMove m s = .next t) :
    engineStep s = .next t ∨ HostEffect s t := by
  cases m with
  | regRead index =>
    refine .inr ?_
    simp only [hostMove, hostRegRead] at h
    split at h
    · injection h with h; exact h ▸ .read _ s.freeCount le_rfl
    · split at h <;> cases h
  | regWrite index v =>
    refine .inr ?_
    simp only [hostMove, hostRegWrite] at h
    split at h
    · exact .of_command h
    · split at h
      · split at h
        · injection h with h; exact h ▸ .nothing
        · next hs => injection h with h; exact h ▸ .config _ hs
      · split at h <;> cases h
  | palWrite k c =>
    refine .inr ?_
    simp only [hostMove] at h
    split at h
    · injection h with h; exact h ▸ .nothing
    · next hs => injection h with h; exact h ▸ .pal _ _ hs
  | palRead k =>
    refine .inr ?_
    simp only [hostMove] at h
    split at h
    · injection h with h; exact h ▸ .read _ s.freeCount le_rfl
    · split at h
      · injection h with h; exact h ▸ .read _ s.freeCount le_rfl
      · injection h with h; exact h ▸ .read _ _ (Nat.le_succ _)
  | apalWrite k a =>
    refine .inr ?_
    simp only [hostMove] at h
    split at h
    · injection h with h; exact h ▸ .nothing
    · next hs => injection h with h; exact h ▸ .apal _ _ hs
  | apalRead k =>
    refine .inr ?_
    simp only [hostMove] at h
    split at h
    · injection h with h; exact h ▸ .read _ s.freeCount le_rfl
    · split at h
      · injection h with h; exact h ▸ .read _ s.freeCount le_rfl
      · injection h with h; exact h ▸ .read _ _ (Nat.le_succ _)
  | fstreamWrite a b =>
    refine .inr ?_
    simp only [hostMove] at h
    split at h
    · cases h
    · next hs => injection h with h; exact h ▸ .fstream _ _ hs
  | fstreamRead a =>
    injection h with h; exact .inr (h ▸ .of_byteRead ..)
  | pixWrite a b =>
    refine .inr ?_
    simp only [hostMove] at h
    split at h
    · cases h
    · next hs => injection h with h; exact h ▸ .pix _ _ hs
  | pixRead a =>
    injection h with h; exact .inr (h ▸ .of_byteRead ..)
  | cmd code => exact .inr (.of_command h)
  | yield => exact .inl h
  | await => exact .inl h

/-- What a step can do: with `p` the moves still to come, the engine takes its turn, or the host has its effect. -/
theorem step_cases {s t : State} (h : step s = .next t) :
    ∃ p, engineStep { s with pending := p } = .next t ∨ HostEffect { s with pending := p } t := by
  unfold step turn at h
  split at h
  · exact ⟨s.pending, .inl h⟩
  · split at h
    · exact ⟨s.pending, .inl h⟩
    · injection h with h; subst h; exact ⟨_, .inr .nothing⟩
  · exact ⟨_, hostMove_cases h⟩

/-- With no move of the host left a step is the engine's turn. -/
theorem step_of_pending_nil {s : State} (h : s.pending = []) : step s = engineStep s := by
  unfold step turn; rw [h]

/-- What an engine turn can do: nothing outside Running, else a scanline step. -/
theorem engineStep_cases {s t : State} (h : engineStep s = .next t) :
    (s.status ≠ .running ∧ t = s) ∨
    (s.status = .running ∧ s.cfg.direction = .decode ∧ decodeStep s = .next t) ∨
    (s.status = .running ∧ s.cfg.direction = .encode ∧ encodeStep s = .next t) := by
  by_cases hs : s.status = .running
  · unfold engineStep at h
    simp only [hs] at h
    split at h
    · next hd => exact .inr (.inl ⟨hs, hd, h⟩)
    · next hd => exact .inr (.inr ⟨hs, hd, h⟩)
  · rw [engineStep_not_running hs] at h
    injection h with h
    exact .inl ⟨hs, h.symm⟩

end Sys2Proof.Machine
end

