-- ==== Sys2Proof/Laws/Stripe.lean ====
section
/-! SUPPORT. The row loop of the stripe arrangement: it always answers, and it composes. -/

namespace Sys2Proof.Machine

/-- The row loop answers a next state, the one `rowsEnd` names (70_reset_and_hazards R297). -/
theorem runRows_eq_rowsEnd (n : Nat) (s : State) : runRows n s = .next (rowsEnd n s) := by
  have total : ∀ (n : Nat) (s : State), ∃ t, runRows n s = .next t := by
    intro n
    induction n with
    | zero => exact fun s => ⟨s, rfl⟩
    | succ n ih =>
      intro s
      unfold runRows
      split
      · obtain ⟨t, ht⟩ := engineStep_total s
        rw [ht]
        exact ih t
      · exact ⟨s, rfl⟩
  obtain ⟨t, ht⟩ := total n s
  unfold rowsEnd
  rw [ht]

/-- A run that has ended makes no further step. -/
theorem runRows_not_running (n : Nat) {s : State} (h : s.status ≠ .running) : runRows n s = .next s := by
  cases n with
  | zero => rfl
  | succ n => unfold runRows; rw [if_neg h]

/-- `m + n` rows are `m` rows and then `n`. -/
theorem runRows_add (m n : Nat) (s : State) : runRows (m + n) s = andThen (runRows m s) (runRows n) := by
  induction m generalizing s with
  | zero => rw [Nat.zero_add]; rfl
  | succ m ih =>
    rw [Nat.succ_add]
    unfold runRows
    split
    · obtain ⟨t, ht⟩ := engineStep_total s
      rw [ht]
      exact ih t
    · next h => exact (runRows_not_running n h).symm

end Sys2Proof.Machine
end

