-- ==== Sys2Proof/Tests/Slice0.lean ====
section
/-! SUPPORT. The model's own tests: words written out from 30_encoding, one-step runs whose results are the worked examples of the
rules, and for every statement with hypotheses a state and operands that meet them. -/

open Sys2Proof Sys2Proof.Machine

namespace Sys2Proof.Tests

/-! ### Small states -/

/-- The block after reset with a direction, a size and a mode. -/
def block (dir : BitVec 1) (w h : BitVec 32) (bd ct : Byte) : State :=
  { State.reset with cfg := { Cfg.reset with dir := dir, width := w, height := h, bitDepth := bd, colorType := ct } }

/-- `s` about to take the first scanline step of a run. -/
def begun (s : State) : State :=
  { s with status := .running, prev := ⟨s.prev.tag, List.replicate s.cfg.rowb 0⟩ }

/-- `s` with a stream in FSTREAM and its length in FSTREAM_LEN. -/
def withStream (s : State) (bytes : List Byte) : State :=
  { s with fstream := s.fstream.writeList 0 bytes, cfg := { s.cfg with fstreamLen := bytes.length } }

/-- `s` with bytes in PIX. -/
def withPix (s : State) (bytes : List Byte) : State := { s with pix := s.pix.writeList 0 bytes }

/-- `s` with the row buffers filled. -/
def withRows (s : State) (cur prev : List Byte) : State := { s with cur := ⟨4, cur⟩, prev := ⟨5, prev⟩ }

/-- `s` with a palette. -/
def withPalette (s : State) (cs : List Rgb) : State :=
  { s with pal := s.pal.writeList 0 cs, cfg := { s.cfg with palLen := BitVec.ofNat 9 cs.length } }

/-- A field of the next state. -/
def look {α : Type} (o : Host.Outcome State Fault Refusal) (f : State → α) : Option α :=
  match o with
  | .next s => some (f s)
  | .fault _ => none
  | .refused _ => none

/-- The bytes of PIX that have been written. -/
def pixBytes (s : State) : List Byte := s.pix.cells.map Prod.snd

/-- The bytes of FSTREAM that have been written. -/
def streamBytes (s : State) : List Byte := s.fstream.cells.map Prod.snd

/-- STATE, ERR, ERR_ROW, ERR_INFO. -/
def faultOf (s : State) : RunState × ErrKind × Nat × Nat := (s.status, s.err, s.errRow.toNat, s.errInfo.toNat)

/-- A 1 x 1 RGBA8 decode run before its only row (spec example of R228). -/
def oneDecode : State := withStream (begun (block 0 1 1 8 6)) [0, 0xFF, 0, 0, 0xFF]

/-- A 1 x 1 RGBA8 adaptive encode run before its only row (spec example of R229). -/
def oneEncode : State := withPix (begun (block 1 1 1 8 6)) [0xFF, 0, 0, 0xFF]

/-- The two colours of the example of R193. -/
def twoColours : List Rgba := [⟨255, 0, 0, 255⟩, ⟨0, 255, 0, 255⟩]

/-- The Indexed encode run of the example of R193 before its only row. -/
def indexedEncode : State :=
  { withPix (begun (block 1 2 1 0 3)) [0, 0xFF, 0, 0xFF, 0xFF, 0, 0, 0xFF] with epal := twoColours }

/-! ### Well-formedness -/

theorem test_wellFormed_refuses_depth : (Instr.packIdx8 3).wellFormed = false ∧ (Instr.packIdx8 16).wellFormed = false := by decide

theorem test_wellFormed_accepts : (idx8Depths.all fun b => (Instr.packIdx8 b).wellFormed) = true := by decide

/-! ### Words, written out from 30_encoding R92, R98, R99, R101, R105 -/

theorem test_decode_unfilt :
    [0, 1, 2, 3, 4].map (fun b => (decode (.scanline .decode) [b]).toOption.map Prod.fst) =
      [some .unfiltNone, some .unfiltSub, some .unfiltUp, some .unfiltAvg, some .unfiltPaeth] := by decide

theorem test_decode_filt :
    [0, 1, 2, 3, 4].map (fun b => (decode (.scanline .encode) [b]).toOption.map Prod.fst) =
      [some .filtNone, some .filtSub, some .filtUp, some .filtAvg, some .filtPaeth] := by decide

theorem test_decode_gray :
    [0b00000001, 0b00000010, 0b00000100, 0b00001000, 0b00010000].map
        (fun b => (decode (.mode .decode) [b, 0b00000000]).toOption.map Prod.fst) =
      [some .unpackG1, some .unpackG2, some .unpackG4, some .unpackG8, some .unpackG16] := by decide

theorem test_decode_indexed :
    [0b00000001, 0b00000010, 0b00000100, 0b00001000].map
        (fun b => (decode (.mode .decode) [b, 0b00000011]).toOption.map Prod.fst) =
      [some .unpackP1, some .unpackP2, some .unpackP4, some .unpackP8] := by decide

theorem test_decode_colour :
    [(8, 2), (16, 2), (8, 4), (16, 4), (8, 6), (16, 6)].map
        (fun p => (decode (.mode .decode) [p.1, p.2]).toOption.map Prod.fst) =
      [some .unpackRgb8, some .unpackRgb16, some .unpackGa8, some .unpackGa16, some .unpackRgba8, some .unpackRgba16] := by decide

theorem test_decode_pack :
    [(8, 6), (8, 2), (0, 3), (1, 3), (2, 3), (4, 3), (8, 3)].map
        (fun p => (decode (.mode .encode) [p.1, p.2]).toOption.map Prod.fst) =
      [some .packRgba8, some .packRgb8, some (.packIdx8 0), some (.packIdx8 1), some (.packIdx8 2), some (.packIdx8 4),
        some (.packIdx8 8)] := by decide

theorem test_decode_command :
    [0, 1, 2].map (fun b => (decode .command [b]).toOption.map Prod.fst) = [some .nop, some .start, some .reset] := by decide

/-- Reserved words: FTYPE 5, CMD 3, a palette of depth 16, an unknown colour type, an RGB16 packer (R96, R100, R101, R106). -/
theorem test_decode_refuses :
    decode (.scanline .decode) [5] = .error (.badFilter 5) ∧ decode .command [3] = .error (.reservedCommand 3) ∧
    decode (.mode .decode) [16, 3] = .error (.badBitDepth 16 3) ∧ decode (.mode .decode) [8, 1] = .error (.unknownColorType 1) ∧
    decode (.mode .encode) [16, 2] = .error (.unsupportedMode 16 2) := by decide

theorem test_tableWord_byte : decodeTableWord 8 4 = some .unfiltPaeth ∧ decodeTableWord 8 5 = none := by decide

theorem test_tableWord_mode :
    decodeTableWord 16 0x1002 = some .unpackRgb16 ∧ decodeTableWord 16 0x0003 = some (.packIdx8 0) ∧ decodeTableWord 16 0x0303 = none := by
  decide

theorem test_placed_unfilt : look (step (State.reset.withFetchWord 8 4)) (fun t => (t.status, t.ft)) = some (.done, 4) := by decide

theorem test_placed_unpack : look (step (State.reset.withFetchWord 16 0x1002)) (fun t => (t.status, pixBytes t)) =
    some (.done, [0, 0, 0, 255]) := by decide

theorem test_placed_pack : look (step (State.reset.withFetchWord 16 0x0003)) (fun t => (t.status, t.cur.bytes)) =
    some (.done, [0]) := by decide

/-! ### UNFILT: the examples of 40_unfilter R126 to R130 -/

theorem test_unfiltNone : look (exec .unfiltNone oneDecode) (·.cur.bytes) = some [0xFF, 0, 0, 0xFF] := by decide

theorem test_unfiltSub :
    look (exec .unfiltSub (withStream (begun (block 0 2 1 8 2)) [1, 0x0A, 0x14, 0x1E, 0x1E, 0x1E, 0x1E])) (·.cur.bytes) =
      some [0x0A, 0x14, 0x1E, 0x28, 0x32, 0x3C] := by decide

theorem test_unfiltUp :
    look (exec .unfiltUp (withRows (withStream (block 0 2 1 8 0) [2, 0x0A, 0x04]) [] [0xFA, 0x03])) (·.cur.bytes) =
      some [0x04, 0x07] := by decide

/-- The carry out of the pad bits of a G1 row of four pixels reaches pixel 3 (log 19; R120's arithmetic by hand: 0F + 01 = 10). -/
theorem test_unfiltUp_pad :
    look (exec .unfiltUp (withRows (withStream (block 0 4 1 1 0) [2, 0x0F]) [] [0x01])) (·.cur.bytes) = some [0x10] := by decide

theorem test_unfiltAvg :
    look (exec .unfiltAvg (withRows (withStream (block 0 2 1 8 0) [3, 0x0A, 0x0A]) [] [0x64, 0xC8])) (·.cur.bytes) =
      some [0x3C, 0x8C] := by decide

/-- The inner sum of Average does not wrap (R129, corner cases). -/
theorem test_unfiltAvg_wide : predAvg 0xFF 0xFF 0 = 0xFF ∧ predAvg 1 2 0 = 1 := by decide

theorem test_unfiltPaeth :
    look (exec .unfiltPaeth (withRows (withStream (block 0 2 1 8 0) [4, 0x0A, 0x05]) [] [0x00, 0x14])) (·.cur.bytes) =
      some [0x0A, 0x19] := by decide

/-- R125, items 2 and 3; a tie of left and up_left goes to left, one of up and up_left to up (R124). -/
theorem test_paeth_values : paeth 0 0 0 = 0 ∧ paeth 10 20 0 = 20 ∧ paeth 8 11 10 = 8 ∧ paeth 11 8 10 = 8 := by decide

/-! ### UNPACK: the examples of 41_unpack R145 to R159 -/

theorem test_unpackG1 :
    look (exec .unpackG1 (withRows (block 0 2 1 1 0) [0xAA] [])) pixBytes = some [0xFF, 0xFF, 0xFF, 0xFF, 0, 0, 0, 0xFF] := by decide

theorem test_unpackG2 :
    look (exec .unpackG2 (withRows (block 0 4 1 2 0) [0x1B] [])) pixBytes =
      some [0, 0, 0, 0xFF, 0x55, 0x55, 0x55, 0xFF, 0xAA, 0xAA, 0xAA, 0xFF, 0xFF, 0xFF, 0xFF, 0xFF] := by decide

theorem test_unpackG4 :
    look (exec .unpackG4 (withRows (block 0 2 1 4 0) [0x5A] [])) pixBytes =
      some [0x55, 0x55, 0x55, 0xFF, 0xAA, 0xAA, 0xAA, 0xFF] := by decide

/-- A gray block with a key. -/
def grayKey (bd : Byte) (key : BitVec 16) : State :=
  let s := block 0 1 1 bd 0
  { s with cfg := { s.cfg with trnsKind := 1, trnsGray := key } }

theorem test_unpackG8_key :
    look (exec .unpackG8 (withRows (grayKey 8 0x007F) [0x7F] [])) pixBytes = some [0x7F, 0x7F, 0x7F, 0] := by decide

theorem test_unpackG8_wideKey :
    look (exec .unpackG8 (withRows (grayKey 8 0x017F) [0x7F] [])) pixBytes = some [0x7F, 0x7F, 0x7F, 0xFF] := by decide

theorem test_unpackG16 :
    look (exec .unpackG16 (withRows (grayKey 16 0x0012) [0x12, 0x34] [])) pixBytes = some [0x12, 0x12, 0x12, 0xFF] := by decide

/-- An RGB block with a key. -/
def rgbKey (bd : Byte) (w : BitVec 32) (r g b : Byte) : State :=
  let s := block 0 w 1 bd 2
  { s with cfg := { s.cfg with trnsKind := 2, trnsR := r, trnsG := g, trnsB := b } }

theorem test_unpackRgb8 :
    look (exec .unpackRgb8 (withRows (rgbKey 8 2 0 0 0) [0, 0, 0, 0, 0, 1] [])) pixBytes = some [0, 0, 0, 0, 0, 0, 1, 0xFF] := by
  decide

theorem test_unpackRgb16 :
    look (exec .unpackRgb16 (withRows (rgbKey 16 1 1 2 3) [0x01, 0xFF, 0x02, 0xFE, 0x03, 0xFD] [])) pixBytes = some [1, 2, 3, 0] := by
  decide

theorem test_unpackP1 :
    look (exec .unpackP1 (withRows (withPalette (block 0 2 1 1 3) [⟨0, 0, 0⟩, ⟨255, 255, 255⟩]) [0x80] [])) pixBytes =
      some [0xFF, 0xFF, 0xFF, 0xFF, 0, 0, 0, 0xFF] := by decide

/-- The four colours of the examples of R153 and R154. -/
def fourColours : List Rgb := [⟨0, 0, 0⟩, ⟨255, 0, 0⟩, ⟨0, 255, 0⟩, ⟨0, 0, 255⟩]

/-- The alpha palette of the example of R153. -/
def withAlphas (s : State) (as : List Byte) : State :=
  { s with apal := s.apal.writeList 0 as, cfg := { s.cfg with trnsKind := 3, apalLen := BitVec.ofNat 9 as.length } }

theorem test_unpackP2 :
    look (exec .unpackP2 (withRows (withAlphas (withPalette (block 0 4 1 2 3) fourColours) [0, 0x80]) [0x1B] [])) pixBytes =
      some [0, 0, 0, 0, 0xFF, 0, 0, 0x80, 0, 0xFF, 0, 0xFF, 0, 0, 0xFF, 0xFF] := by decide

theorem test_unpackP4 :
    look (exec .unpackP4 (withRows (withPalette (block 0 4 1 4 3) fourColours) [0x13, 0] [])) pixBytes =
      some [0xFF, 0, 0, 0xFF, 0, 0, 0xFF, 0xFF, 0, 0, 0, 0xFF, 0, 0, 0, 0xFF] := by decide

theorem test_unpackP4_fault :
    look (exec .unpackP4 (withRows (withPalette (block 0 4 1 4 3) fourColours) [0x1B, 0x40] [])) faultOf =
      some (.faulted, .paletteIndexRange, 0, 11) := by decide

theorem test_unpackP8 :
    look (exec .unpackP8 (withRows (withPalette (block 0 2 1 8 3) [⟨10, 20, 30⟩, ⟨40, 50, 60⟩]) [1, 0] [])) pixBytes =
      some [0x28, 0x32, 0x3C, 0xFF, 0x0A, 0x14, 0x1E, 0xFF] := by decide

theorem test_unpackGa8 : look (exec .unpackGa8 (withRows (block 0 1 1 8 4) [0x80, 0x40] [])) pixBytes =
    some [0x80, 0x80, 0x80, 0x40] := by decide

theorem test_unpackGa16 : look (exec .unpackGa16 (withRows (block 0 1 1 16 4) [0x80, 1, 0x40, 2] [])) pixBytes =
    some [0x80, 0x80, 0x80, 0x40] := by decide

theorem test_unpackRgba8 : look (exec .unpackRgba8 (withRows (block 0 1 1 8 6) [0xFF, 0, 0, 0xFF] [])) pixBytes =
    some [0xFF, 0, 0, 0xFF] := by decide

theorem test_unpackRgba16 :
    look (exec .unpackRgba16 (withRows (block 0 1 1 16 6) [0x11, 0x22, 0x33, 0x44, 0x55, 0x66, 0x77, 0x88] [])) pixBytes =
      some [0x11, 0x33, 0x55, 0x77] := by decide

/-! ### FILT: the examples of 42_filter R179 to R184 -/

theorem test_filtNone : look (exec .filtNone (withRows (block 1 3 1 0 3) [1, 0, 2] [0, 0, 0])) streamBytes = some [0, 1, 0, 2] := by
  decide

theorem test_filtSub :
    look (exec .filtSub (withRows (block 1 2 1 8 2) [0x0A, 0x14, 0x1E, 0x28, 0x32, 0x3C] [0, 0, 0, 0, 0, 0])) streamBytes =
      some [1, 0x0A, 0x14, 0x1E, 0x1E, 0x1E, 0x1E] := by decide

theorem test_filtUp : look (exec .filtUp (withRows (block 1 2 1 0 3) [0x04, 0x07] [0xFA, 0x03])) streamBytes =
    some [2, 0x0A, 0x04] := by decide

theorem test_filtAvg : look (exec .filtAvg (withRows (block 1 2 1 0 3) [0x3C, 0x8C] [0x64, 0xC8])) streamBytes =
    some [3, 0x0A, 0x0A] := by decide

theorem test_filtPaeth : look (exec .filtPaeth (withRows (block 1 2 1 0 3) [0x0A, 0x19] [0x00, 0x14])) streamBytes =
    some [4, 0x0A, 0x05] := by decide

/-- R184, row 1: PAETH wins with 270. -/
theorem test_chooseFilter :
    let s := withRows (block 1 2 2 8 2) [0x46, 0x50, 0x5A, 0x64, 0x6E, 0x78] [0x0A, 0x14, 0x1E, 0x28, 0x32, 0x3C]
    (filterSum predSub s, filterSum predUp s, filterSum predAvg s, filterSum paeth s) = (330, 360, 345, 270) ∧ chooseFilter s = 4 := by
  decide

/-! ### PACK: the examples of 43_pack R191 to R205 -/

theorem test_packRgba8_abgr :
    let s := withPix (block 1 1 1 8 6) [0x11, 0x22, 0x33, 0x44]
    look (exec .packRgba8 { s with cfg := { s.cfg with srcAbgr := 1 } }) (·.cur.bytes) = some [0x44, 0x33, 0x22, 0x11] := by decide

theorem test_packRgb8 :
    look (exec .packRgb8 (withPix (block 1 2 1 8 2) [0x0A, 0x14, 0x1E, 0x80, 0x28, 0x32, 0x3C, 0])) (·.cur.bytes) =
      some [0x0A, 0x14, 0x1E, 0x28, 0x32, 0x3C] := by decide

theorem test_packIdx8 : look (exec (.packIdx8 0) indexedEncode) (·.cur.bytes) = some [1, 0] := by decide

theorem test_packIdx8_miss :
    look (exec (.packIdx8 0) { indexedEncode with epal := [⟨0, 255, 0, 255⟩] }) faultOf = some (.faulted, .paletteMiss, 0, 1) := by
  decide

/-! ### Commands: the examples of 44_control R221 to R232 -/

theorem test_nop : look (exec .nop { State.reset with status := .done }) (·.status) = some .done := by decide

theorem test_start_afterReset : look (exec .start State.reset) faultOf = some (.faulted, .badHeader, 0, 0) := by decide

theorem test_start_accepted :
    look (exec .start (block 0 1 2 8 6)) (fun t => (t.status, t.y, t.ip, t.prev.bytes)) = some (.running, 0, 0, [0, 0, 0, 0]) := by
  decide

theorem test_reset :
    look (exec .reset { oneDecode with status := .faulted, err := .badFilter }) (fun t => (t.status, t.err, t.cfg.width, streamBytes t)) =
      some (.idle, .none, 0, [0, 0xFF, 0, 0, 0xFF]) := by decide

/-! ### Steps: the examples of R228 and R229, the faults of R227, host moves -/

theorem test_step_decode :
    look (step oneDecode) (fun t => (pixBytes t, t.y, t.ip, t.status)) = some ([0xFF, 0, 0, 0xFF], 1, 5, .done) := by decide

theorem test_step_encode :
    look (step oneEncode) (fun t => (streamBytes t, t.cfg.fstreamLen, t.status)) = some ([1, 0xFF, 0, 0, 0xFF], 5, .done) := by decide

theorem test_step_indexed : look (step indexedEncode) streamBytes = some [0, 1, 0] := by decide

theorem test_fetch_truncated :
    look (step (withStream (begun (block 0 1 1 8 6)) [])) faultOf = some (.faulted, .truncated, 0, 0) ∧
    look (step (withStream (begun (block 0 1 1 8 6)) [0, 1])) faultOf = some (.faulted, .truncated, 0, 1) := by decide

theorem test_fetch_badFilter : look (step (withStream (begun (block 0 1 1 8 6)) [5])) faultOf = some (.faulted, .badFilter, 0, 5) := by
  decide

/-- The catch-all arm of the unpack dispatch raises BadBitDepth for an unknown colour type too (41_unpack R164). -/
theorem test_step_noMode :
    look (step (withStream (begun (block 0 1 1 8 1)) [0])) faultOf = some (.faulted, .badBitDepth, 0, 0) := by decide

/-- One engine outside RGBA8 decode (60_exceptions R265): two stripes given for a G8 image do not reset PREV at row 1. -/
theorem test_stripes_otherMode :
    let s := withStream (begun (block 0 1 2 8 0)) [0, 7, 2, 1]
    (stripeRun s [⟨0, 1⟩, ⟨1, 1⟩]).cur.bytes = [8] ∧ legalPartition s [⟨0, 2⟩] = false := by decide

theorem test_regWrite_truncates :
    look (step { State.reset with pending := [.regWrite 7 6] }) (fun t => (regValue t 7, t.pending)) = some (some 2, []) := by decide

theorem test_script_moves :
    (State.reset.withScript [.mode .unpackRgba8, .scanline 0 [7], .start]).pending =
      [.regWrite 2 8, .regWrite 3 6, .fstreamWrite 0 0, .fstreamWrite 1 7, .regWrite 21 2, .cmd 1, .await] := by decide

theorem test_reset_memory_wf : Memory.wf State.reset.fstream ∧ Memory.wf State.reset.pix := by decide

theorem test_write_keeps_order : (((Store.unwritten 0 : Memory).write 5 1).write 2 7).cells = [(2, 7), (5, 1)] := by decide

/-! ### Witnesses: for every statement with hypotheses, a state and operands that meet them -/

theorem witness_DecodeEncodeAgree :
    (Instr.packIdx8 8).wellFormed = true ∧ decode (.mode .encode) [4, 3, 9] = .ok (.packIdx8 4, [9]) := by decide

theorem witness_ReservedWordsRefused :
    4 < (5 : Byte).toNat ∧ 4 < (255 : Byte).toNat ∧ 2 < (3 : Byte).toNat ∧ (1 : Byte).toNat ∉ [0, 2, 3, 4, 6] ∧
    ((3 : Byte).toNat ∈ [0, 2, 3, 4, 6] ∧ (3, 16) ∉ [(0, 1), (0, 2), (0, 4), (0, 8), (0, 16), (2, 8), (2, 16), (3, 1), (3, 2),
      (3, 4), (3, 8), (4, 8), (4, 16), (6, 8), (6, 16)]) ∧
    (2, 16) ∉ [(6, 8), (2, 8), (3, 0), (3, 1), (3, 2), (3, 4), (3, 8)] := by decide

theorem witness_StepRunsDecodeRow :
    oneDecode.pending = [] ∧ oneDecode.status = .running ∧ oneDecode.cfg.direction = .decode ∧
    oneDecode.ip + oneDecode.cfg.slen ≤ oneDecode.cfg.fstreamLen ∧
    decode (.scanline .decode) [oneDecode.readFstream oneDecode.ip] = .ok (.unfiltNone, []) ∧
    decode (.mode .decode) [oneDecode.cfg.bitDepth, oneDecode.cfg.colorType] = .ok (.unpackRgba8, []) := by decide

/-- A Running state no run reaches, of the unknown colour type 1. -/
theorem witness_StepRunsDecodeRow_noMode :
    let s := withStream (begun (block 0 1 1 8 1)) [0]
    s.pending = [] ∧ s.status = .running ∧ s.cfg.direction = .decode ∧ s.ip + s.cfg.slen ≤ s.cfg.fstreamLen ∧
    decode (.scanline .decode) [s.readFstream s.ip] = .ok (.unfiltNone, []) ∧
    decode (.mode .decode) [s.cfg.bitDepth, s.cfg.colorType] = .error (.unknownColorType 1) := by decide

theorem witness_StepRunsEncodeRow :
    oneEncode.pending = [] ∧ oneEncode.status = .running ∧ oneEncode.cfg.direction = .encode ∧
    decode (.mode .encode) [oneEncode.cfg.bitDepth, oneEncode.cfg.colorType] = .ok (.packRgba8, []) ∧
    ∃ u, exec .packRgba8 oneEncode = .next u ∧ u.status = .running ∧
      decode (.scanline .encode) [chooseFilter u] = .ok (.filtSub, []) :=
  ⟨by decide, by decide, by decide, by decide, _, rfl, by decide, by decide⟩

/-- The palette lacks the second pixel's colour. -/
theorem witness_StepRunsEncodeRow_raised :
    let s := { indexedEncode with epal := [⟨0, 255, 0, 255⟩] }
    s.pending = [] ∧ s.status = .running ∧ s.cfg.direction = .encode ∧
    decode (.mode .encode) [s.cfg.bitDepth, s.cfg.colorType] = .ok (.packIdx8 0, []) ∧
    ∃ u, exec (.packIdx8 0) s = .next u ∧ u.status ≠ .running :=
  ⟨by decide, by decide, by decide, by decide, _, rfl, by decide⟩

theorem witness_StepRunsCommand :
    decode .command [1] = .ok (.start, []) ∧ ({ State.reset with pending := [.cmd 1] }).pending = .cmd 1 :: [] ∧
    ({ State.reset with pending := [.regWrite 48 1] }).pending = .regWrite 48 (1 : Byte).toNat :: [] := by decide

theorem witness_EngineIdleOutsideRunning : State.reset.pending = [] ∧ State.reset.status ≠ .running := by decide

/-- A nine-pixel row of depth 1, and the largest mode. -/
theorem witness_DecodeGeometryTable :
    ((block 0 9 1 1 0).cfg.direction = .decode ∧ (block 0 9 1 1 0).cfg.width.toNat = 9 ∧
      (block 0 9 1 1 0).cfg.colorType.toNat = 0 ∧ (block 0 9 1 1 0).cfg.bitDepth.toNat = 1) ∧
    (block 0 1 1 16 6).cfg.colorType.toNat = 6 ∧ (block 0 1 1 16 6).cfg.bitDepth.toNat = 16 := by decide

theorem witness_EncodeGeometryTable :
    (block 1 2 1 0 3).cfg.direction = .encode ∧ (block 1 2 1 0 3).cfg.width.toNat = 2 ∧ (block 1 2 1 0 3).cfg.colorType.toNat = 3 := by
  decide

theorem witness_FilterUnitBounds : startCheck (block 0 1 1 16 6).cfg = none ∧ startCheck (block 0 1 1 1 0).cfg = none := by decide

theorem witness_UnfilterRecovers : 0 < oneDecode.cfg.fu := by decide

/-- P1 with two colours: every index is below PAL_LEN; with one colour the first index, 1, is not. -/
theorem witness_UnpackPalette :
    let s := withRows (withPalette (block 0 2 1 1 3) [⟨0, 0, 0⟩, ⟨255, 255, 255⟩]) [0x80] []
    let t := withRows (withPalette (block 0 2 1 1 3) [⟨0, 0, 0⟩]) [0x80] []
    let index := fun x => if ((0x80 : Byte)).getLsbD (7 - x % 8) then 1 else 0
    (s.cur.byte 0 = 0x80 ∧ t.cur.byte 0 = 0x80) ∧ (∀ x, x < s.cfg.width.toNat → index x < s.cfg.palLen.toNat) ∧
    (0 < t.cfg.width.toNat ∧ t.cfg.palLen.toNat ≤ index 0 ∧ ∀ x', x' < 0 → index x' < t.cfg.palLen.toNat) := by decide

theorem witness_UnfilterInvertsFilter :
    let s := withRows (block 1 2 1 8 2) [1, 2, 3, 4, 5, 6] [0, 0, 0, 0, 0, 0]
    0 < s.cfg.fu ∧ s.cur.bytes.length = s.cfg.rowb := by decide

theorem witness_FilterChoice :
    (block 1 2 1 0 3).cfg.colorType = 3 ∧
    (let c := { (block 1 2 1 8 2).cfg with filterMode := 1, fixedFilter := 4 }
     c.colorType ≠ 3 ∧ c.filterMode = 1) ∧
    (let s := withRows (block 1 1 1 8 2) [1, 2, 3] [0, 0, 0]
     s.cfg.colorType ≠ 3 ∧ s.cfg.filterMode ≠ 1 ∧ ∀ i, i < s.cfg.rowb → s.prev.byte i = 0) := by decide

/-- The example of R193: pixel x of the row has its colour first at position 1 - x of EPAL. -/
theorem witness_PackIndexed_found :
    ∀ x, x < indexedEncode.cfg.width.toNat → 1 - x < 256 ∧
      (indexedEncode.epal[1 - x]? = some (readPixel indexedEncode x indexedEncode.y.toNat) ∧
        ∀ j, j < 1 - x → indexedEncode.epal[j]? ≠ some (readPixel indexedEncode x indexedEncode.y.toNat)) := by decide

/-- With a palette that lacks the second pixel's colour the first pixel has a representative and the second has none. -/
theorem witness_PackIndexed_miss :
    let s := { indexedEncode with epal := [⟨0, 255, 0, 255⟩], rmap := [] }
    let pixel := fun x : Nat => readPixel s x s.y.toNat
    1 < s.cfg.width.toNat ∧
    (∀ k : Nat, ¬(s.epal[k]? = some (pixel 1) ∧ ∀ j, j < k → s.epal[j]? ≠ some (pixel 1))) ∧ rmapLookup (pixel 1) s.rmap = none ∧
    (s.epal[0]? = some (pixel 0) ∧ ∀ j, j < 0 → s.epal[j]? ≠ some (pixel 0)) := by
  refine ⟨by decide, fun k h => ?_, by decide, by decide, by decide⟩
  have hm := List.mem_of_getElem? h.1
  revert hm
  decide

/-- A row whose second colour is in EPAL and whose first is merged into it. -/
theorem witness_IndexedRowDecodes :
    let s := { indexedEncode with epal := [⟨255, 0, 0, 255⟩], rmap := [(⟨0, 255, 0, 255⟩, ⟨255, 0, 0, 255⟩)] }
    s.epal.length ≤ 256 ∧ (∀ x, x < s.cfg.width.toNat → indexFor s.epal s.rmap (readPixel s x s.y.toNat) ≠ none) ∧
    readPixel s 1 s.y.toNat ∈ s.epal ∧ readPixel s 0 s.y.toNat ∉ s.epal := by decide

theorem witness_DepthAndLimit :
    ((8 : Byte) ≠ 0 ∧ 2 ≤ 2 ∧ (2 < 3 ∧ 4 ≤ 4) ∧ (4 < 5 ∧ 16 ≤ 16) ∧ 16 < 17) ∧
    Cfg.reset.maxPalSet = 0 ∧ ({ Cfg.reset with maxPalSet := 1, maxPal := 1 }).maxPalSet = 1 ∧
    ¬(({ Cfg.reset with maxPalSet := 1, maxPal := 1 }).maxPalSet = 1 ∧ ({ Cfg.reset with maxPalSet := 1, maxPal := 1 }).maxPal = 0) := by
  decide

theorem witness_ClosestPairLexicographic : 2 ≤ twoColours.length := by decide

theorem witness_ReductionMapsDropped :
    (twoColours[(closestPair twoColours).1]? = some ⟨255, 0, 0, 255⟩ ∧ twoColours[(closestPair twoColours).2]? = some ⟨0, 255, 0, 255⟩) ∧
    twoColours.Nodup ∧ 1 ≤ 1 ∧ 1 ≤ twoColours.length := by decide

theorem witness_StartIgnored :
    ({ State.reset with status := .running }).status = .running ∧ ({ State.reset with status := .faulted }).status = .faulted := by
  decide

/-- One configuration for each check of R224, in order. -/
theorem witness_StartChecksInOrder :
    MayStart (block 0 1 1 8 6) ∧
    [ { (block 0 1 1 8 6).cfg with filterMethod := 1 },
      { (block 0 1 1 8 6).cfg with interlace := 1 },
      { (block 0 1 1 8 6).cfg with height := 0x80000000 },
      { (block 0 1 1 8 6).cfg with colorType := 5 },
      { (block 0 1 1 8 6).cfg with bitDepth := 4 },
      (block 0 1 1 8 3).cfg,
      { (block 0 1 1 8 3).cfg with palLen := 257 },
      { (block 0 1 1 8 6).cfg with trnsKind := 1 },
      (block 1 1 1 16 6).cfg,
      { (block 1 1 1 8 6).cfg with filterMode := 1 },
      { (block 1 1 1 0 3).cfg with maxPalSet := 1 } ].map (fun c => firstFailing (startTable c)) =
      [some .badHeader, some .unsupportedInterlace, some .badHeader, some .badHeader, some .badBitDepth, some .missingPalette,
        some .badPalette, some .badTransparency, some .unsupportedMode, some .badFilter, some .badPalette] :=
  ⟨.inl rfl, by decide⟩

theorem witness_StartAccepted :
    MayStart (block 0 1 1 8 6) ∧ firstFailing (startTable (block 0 1 1 8 6).cfg) = none ∧
    ¬((block 0 1 1 8 6).cfg.dir = 1 ∧ (block 0 1 1 8 6).cfg.colorType = 3) ∧
    MayStart (block 1 1 1 0 3) ∧ firstFailing (startTable (block 1 1 1 0 3).cfg) = none ∧
    (block 1 1 1 0 3).cfg.dir = 1 ∧ (block 1 1 1 0 3).cfg.colorType = 3 :=
  ⟨.inl rfl, by decide, by decide, .inl rfl, by decide, by decide, by decide⟩

/-- Two colours under a limit of two, and under a limit of one with and without REDUCE. -/
theorem witness_IndexedStartPalette :
    let s := withPix (block 1 2 1 0 3) [255, 0, 0, 255, 0, 255, 0, 255]
    let c := { s.cfg with maxPalSet := 1, maxPal := 1 }
    (MayStart s ∧ firstFailing (startTable s.cfg) = none ∧ firstFailing (startTable c) = none ∧ s.cfg.dir = 1 ∧
      s.cfg.colorType = 3) ∧
    scanPalette none [] (allPixels s) = some twoColours ∧
    twoColours.length ≤ paletteLimit s.cfg (effectiveDepth s.cfg.bitDepth twoColours.length) ∧
    ({ c with reduce := 1 }).reduce = 1 ∧
    (paletteLimit c (effectiveDepth c.bitDepth twoColours.length) < twoColours.length ∧ c.reduce = 0) :=
  ⟨⟨.inl rfl, by decide, by decide, by decide, by decide⟩, by decide, by decide, by decide, by decide⟩

theorem witness_StartForgetsLastRun : MayStart (block 0 1 1 8 6) ∧ startCheck (block 0 1 1 8 6).cfg = none :=
  ⟨.inl rfl, by decide⟩

/-- A stream for each case of FETCH: none, a bad type, a row short of one byte, a whole row. -/
theorem witness_FetchFaults :
    let s := fun bytes => withStream (begun (block 0 1 1 8 6)) bytes
    (∀ bytes ∈ [[], [5], [4, 1, 2, 3], [4, 1, 2, 3, 4]], (s bytes).status = .running ∧ (s bytes).cfg.direction = .decode) ∧
    (s []).cfg.fstreamLen ≤ (s []).ip ∧
    ((s [5]).ip < (s [5]).cfg.fstreamLen ∧ 4 < ((s [5]).readFstream 0).toNat) ∧
    ((s [4, 1, 2, 3]).ip < (s [4, 1, 2, 3]).cfg.fstreamLen ∧ ((s [4, 1, 2, 3]).readFstream 0).toNat ≤ 4 ∧
      (s [4, 1, 2, 3]).cfg.fstreamLen < (s [4, 1, 2, 3]).ip + (s [4, 1, 2, 3]).cfg.slen) ∧
    ((s [4, 1, 2, 3, 4]).ip + (s [4, 1, 2, 3, 4]).cfg.slen ≤ (s [4, 1, 2, 3, 4]).cfg.fstreamLen ∧
      ((s [4, 1, 2, 3, 4]).readFstream 0).toNat ≤ 4) := by decide

theorem witness_FaultEntry : oneDecode.cfg.direction = .decode ∧ oneEncode.cfg.direction = .encode := by decide

theorem witness_EngineStepAdvances : oneDecode.status = .running ∧ oneEncode.status = .running := by decide

/-- A faulted block, idle and about to RESET. -/
theorem witness_FaultedUntilReset :
    ∃ t u, ({ State.reset with status := .faulted, err := .badFilter }).status = .faulted ∧
      step { State.reset with status := .faulted, err := .badFilter } = .next t ∧
      step { State.reset with status := .faulted, err := .badFilter, pending := [.cmd 2] } = .next u ∧ u.status = .idle :=
  ⟨_, _, rfl, rfl, rfl, by decide⟩

theorem witness_StateTransitions :
    ∃ t u v, step { block 0 1 1 8 6 with pending := [.cmd 1] } = .next t ∧ t.status = .running ∧
      step { State.reset with pending := [.cmd 1] } = .next u ∧ u.status = .faulted ∧
      step oneDecode = .next v ∧ v.status = .done :=
  ⟨_, _, _, rfl, by decide, rfl, by decide, rfl, by decide⟩

theorem witness_InputSpaceReadOnly :
    ∃ t u, oneDecode.status = .running ∧ step oneDecode = .next t ∧ oneDecode.cfg.direction = .decode ∧
      oneEncode.status = .running ∧ step oneEncode = .next u ∧ oneEncode.cfg.direction = .encode :=
  ⟨_, _, rfl, rfl, by decide, rfl, rfl, by decide⟩

/-- A run of two rows. -/
def twoRows : State := withStream (begun (block 0 1 2 8 6)) [0, 1, 2, 3, 4, 2, 1, 1, 1, 1]

theorem witness_ConfigurationFixedInRun :
    ∃ t, twoRows.status = .running ∧ step twoRows = .next t ∧ t.status = .running := ⟨_, rfl, rfl, by decide⟩

/-- A row that completes, with a byte of it and one beyond it, and a row that faults. -/
theorem witness_DecodeIgnoresPix :
    let s := withStream (begun (block 0 1 1 8 6)) [5]
    ∃ t u, oneDecode.status = .running ∧ oneDecode.cfg.direction = .decode ∧ engineStep oneDecode = .next t ∧ t.status ≠ .faulted ∧
      (pixelBase oneDecode.cfg 0 0 ≤ 3 ∧ 3 < pixelBase oneDecode.cfg 0 0 + 4 * 1 ∧ pixelBase oneDecode.cfg 0 0 + 4 * 1 ≤ 4) ∧
      s.status = .running ∧ s.cfg.direction = .decode ∧ engineStep s = .next u ∧ u.status = .faulted :=
  ⟨_, _, rfl, by decide, rfl, by decide, by decide, rfl, by decide, rfl, by decide⟩

theorem witness_RegisterWriteThenRead :
    State.reset.status ≠ .running ∧ registerWidths[0]? = some 32 ∧ registerWidths[20]? = some 1 ∧ 7 < 2 ^ 3 ∧
    ({ State.reset with pending := [.regWrite 20 7, .regRead 20] }).pending = .regWrite 20 7 :: .regRead 20 :: [] ∧
    ({ State.reset with pending := [.regWrite 21 7, .regRead 21] }).pending = .regWrite 21 7 :: .regRead 21 :: [] := by decide

theorem witness_RegistersRead :
    ({ State.reset with pending := [.regRead 39] }).pending = .regRead 39 :: [] ∧
    (let s := { State.reset with status := .faulted, err := .paletteIndexRange, pending := [.regRead 33] }
     s.status = .faulted ∧ s.err = .paletteIndexRange ∧ s.pending = .regRead 33 :: []) := by decide

theorem witness_WritesIgnoredWhileRunning :
    (∀ m ∈ [HostMove.regWrite 0 1, .regWrite 21 1, .palWrite 255 ⟨1, 2, 3⟩, .apalWrite 0 1, .cmd 1],
      ({ oneDecode with pending := [m] }).status = .running ∧ ({ oneDecode with pending := [m] }).pending = m :: []) ∧
    0 < 22 ∧ 21 < 22 := by decide

theorem witness_MeaninglessMovesRefused :
    2 < (3 : Byte).toNat ∧ ((22 ≤ 22 ∧ 31 ≤ 31) ∧ (40 ≤ 40 ∧ 47 ≤ 47) ∧ 49 ≤ 49) ∧ (32 ≤ 32 ∧ 39 ≤ 39) ∧
    ({ State.reset with pending := [.regRead 48] }).pending = .regRead 48 :: [] ∧
    ({ oneDecode with pending := [.pixWrite 0 1] }).status = .running ∧
    ({ oneDecode with pending := [.pixWrite 0 1] }).pending = .pixWrite 0 1 :: [] := by decide

theorem witness_TableAndMemoryReadBack :
    let s := { State.reset with cfg := { Cfg.reset with palLen := 256, apalLen := 1 } }
    s.status ≠ .running ∧ (255 : Byte).toNat < s.cfg.palLen.toNat ∧ (0 : Byte).toNat < s.cfg.apalLen.toNat ∧
    ({ s with pending := [.palWrite 255 ⟨1, 2, 3⟩, .palRead 255] }).pending = .palWrite 255 ⟨1, 2, 3⟩ :: .palRead 255 :: [] ∧
    ({ s with pending := [.apalWrite 0 9, .apalRead 0] }).pending = .apalWrite 0 9 :: .apalRead 0 :: [] ∧
    ({ s with pending := [.fstreamWrite 7 9, .fstreamRead 7] }).pending = .fstreamWrite 7 9 :: .fstreamRead 7 :: [] ∧
    ({ s with pending := [.pixWrite 0 9, .pixRead 0] }).pending = .pixWrite 0 9 :: .pixRead 0 :: [] := by decide

/-- A decode run in its first row meets the run invariants and steps. -/
theorem oneDecode_consistent : RunConsistent oneDecode := fun _ => ⟨by decide, by decide, by decide, by decide⟩

theorem oneDecode_recorded : FaultRecorded oneDecode := by unfold FaultRecorded; decide

theorem witness_StepKeepsCanonical : ∃ t, MemoryCanonical oneDecode ∧ step oneDecode = .next t :=
  ⟨_, by unfold MemoryCanonical; decide, rfl⟩

theorem witness_StepKeepsRunConsistent :
    ∃ t, RunConsistent twoRows ∧ FaultRecorded twoRows ∧ step twoRows = .next t ∧ t.status = .running :=
  ⟨_, fun _ => ⟨by decide, by decide, by decide, by decide⟩, by unfold FaultRecorded; decide, rfl, by decide⟩

/-- Every pixel of the Indexed encode run has a representative. -/
theorem indexedEncode_covers : PaletteCovers indexedEncode := by
  intro _ _ _
  have key : ∀ x, x < 2 → ∀ y, y < 1 →
      indexFor indexedEncode.epal indexedEncode.rmap (readPixel indexedEncode x y) = some (1 - x) := by decide
  exact fun x y hx hy => ⟨1 - x, key x hx y hy, by omega⟩

theorem witness_StepKeepsPaletteCovers :
    ∃ t, PaletteCovers indexedEncode ∧ indexedEncode.cfg.direction = .encode ∧ step indexedEncode = .next t :=
  ⟨_, indexedEncode_covers, by decide, rfl⟩

theorem witness_PaletteMissUnreachable :
    ∃ t, RunConsistent indexedEncode ∧ FaultRecorded indexedEncode ∧ PaletteCovers indexedEncode ∧ indexedEncode.status = .running ∧
      step indexedEncode = .next t :=
  ⟨_, fun _ => ⟨by decide, by decide, by decide, by decide⟩, by unfold FaultRecorded; decide, indexedEncode_covers, rfl, rfl⟩

theorem witness_StepKeepsTagsUsed : ∃ t, TagsUsed oneDecode ∧ step oneDecode = .next t :=
  ⟨_, by unfold TagsUsed; decide, rfl⟩

theorem witness_RunEnds : RunConsistent oneDecode ∧ oneDecode.status = .running ∧ oneDecode.pending = [] :=
  ⟨oneDecode_consistent, rfl, rfl⟩

theorem witness_DecodeWritesEveryPixel :
    ∃ t, RunConsistent oneDecode ∧ oneDecode.status = .running ∧ oneDecode.cfg.direction = .decode ∧ oneDecode.y = 0 ∧
      oneDecode.pending = [] ∧ Host.Core.run core oneDecode.cfg.height.toNat oneDecode = .next t ∧ t.status = .done :=
  ⟨_, oneDecode_consistent, rfl, by decide, rfl, rfl, rfl, by decide⟩

theorem witness_Rgba8RoundTrip :
    let s := { block 1 1 1 8 6 with pending := [.cmd 1] }
    MayStart s ∧ s.pending = [.cmd 1] ∧ s.cfg.dir = 1 ∧ s.cfg.colorType = 6 ∧ startCheck s.cfg = none :=
  ⟨.inl rfl, rfl, rfl, rfl, by decide⟩

/-- Two rows, the second of type Sub, in two stripes; and a mode that has no stripes. -/
theorem witness_StripesMatchSingleEngine :
    let s := withStream (begun (block 0 1 2 8 6)) [0, 1, 2, 3, 4, 1, 1, 1, 1, 1]
    (RunConsistent s ∧ s.status = .running ∧ s.y = 0 ∧ s.prev.bytes = List.replicate s.cfg.rowb 0 ∧
      stripesApply s.cfg = true ∧ legalPartition s [⟨0, 1⟩, ⟨1, 1⟩] = true) ∧
    RunConsistent oneEncode ∧ oneEncode.status = .running ∧ oneEncode.y = 0 ∧
      oneEncode.prev.bytes = List.replicate oneEncode.cfg.rowb 0 ∧ stripesApply oneEncode.cfg = false :=
  ⟨⟨fun _ => ⟨by decide, by decide, by decide, by decide⟩, rfl, rfl, by decide, by decide, by decide⟩,
    fun _ => ⟨by decide, by decide, by decide, by decide⟩, rfl, rfl, by decide, by decide⟩

end Sys2Proof.Tests
end

section
/-! PROOFS. The geometry of 00_scope: the formulas of R10 in the decode direction, and their table (R11). -/

namespace Sys2Proof.Machine

/-! ### The formulas of R10 in the decode direction -/

theorem Cfg.depth_decode {c : Cfg} (hdir : c.direction = .decode) : c.depth = c.bitDepth.toNat := by
  simp [Cfg.depth, hdir]

theorem Cfg.spp_of_colorType {c : Cfg} {ct : Nat} (hct : c.colorType.toNat = ct) : c.spp = sppOf ct :=
  congrArg sppOf hct

theorem Cfg.bpp_of_spp_depth {c : Cfg} {n d : Nat} (hspp : c.spp = n) (hdepth : c.depth = d) : c.bpp = n * d := by
  rw [Cfg.bpp, hspp, hdepth]

theorem Cfg.fu_of_spp_depth {c : Cfg} {n d : Nat} (hspp : c.spp = n) (hdepth : c.depth = d) :
    c.fu = if 8 ≤ d then n * (d / 8) else 1 := by
  rw [Cfg.fu, hspp, hdepth]

theorem Cfg.rowb_of_width_bpp {c : Cfg} {w b : Nat} (hw : c.width.toNat = w) (hbpp : c.bpp = b) :
    c.rowb = (w * b + 7) / 8 := by
  rw [Cfg.rowb, hw, hbpp]

/-! ### The table of R11 -/

/-- Settles O8: each column is its formula of R10 at the row's SPP and depth; in the rows of whole bytes the ceiling of ROWB is
exact. -/
theorem decodeGeometryTable : Obligations.DecodeGeometryTable := by
  intro c w hdir hw e he hct hbd
  have hspp := Cfg.spp_of_colorType hct
  have hdepth := (Cfg.depth_decode hdir).trans hbd
  have hbpp := Cfg.bpp_of_spp_depth hspp hdepth
  rw [Cfg.rowb_of_width_bpp hw hbpp, Cfg.fu_of_spp_depth hspp hdepth, hbpp, hspp]
  simp only [List.mem_cons, List.not_mem_nil, or_false] at he
  rcases he with rfl | rfl | rfl | rfl | rfl | rfl | rfl | rfl | rfl | rfl | rfl | rfl | rfl | rfl | rfl <;>
    exact ⟨rfl, rfl, by simp [sppOf], by simp only [sppOf]; omega⟩

end Sys2Proof.Machine
end

section
/-! PROOFS. The rows of a run: a PACK operation fills RAW with ROWB bytes, and a turn of the engine while Running either faults at
row Y or completes it (44_control R228, R229). -/

namespace Sys2Proof.Machine

/-! ### Packed rows (43_pack R190 to R193) -/

/-- The encode geometry has 8 bits a sample, so the ceiling of ROWB is exact (43_pack R190). -/
theorem Cfg.rowb_encode {c : Cfg} (hdir : c.direction = .encode) : c.rowb = c.width.toNat * c.spp := by
  have hdepth : c.depth = 8 := by simp [Cfg.depth, hdir]
  rw [Cfg.rowb, Cfg.bpp, hdepth, ← Nat.mul_assoc]
  omega

/-- What a PACK operation of the configured mode does: it fills RAW with ROWB bytes, or raises PaletteMiss. -/
theorem exec_of_decodePack_rowb {s : State} {i : Instr} (hdir : s.cfg.direction = .encode)
    (h : decodePack s.cfg.bitDepth s.cfg.colorType = .ok i) :
    (∃ row, row.length = s.cfg.rowb ∧ exec i s = .next (s.setCur row)) ∨
    (∃ v, exec i s = .next (s.raise .paletteMiss s.y v)) := by
  have rowb_of_colorType {ct : Nat} (hct : s.cfg.colorType.toNat = ct) : s.cfg.rowb = s.cfg.width.toNat * sppOf ct := by
    rw [Cfg.rowb_encode hdir, Cfg.spp_of_colorType hct]
  unfold decodePack at h
  split at h
  · next hct =>
    split at h <;> cases h
    exact .inl ⟨_, (packRow_length s (fun p => [p.r, p.g, p.b, p.a]) 4 fun _ => rfl).trans (rowb_of_colorType hct).symm, rfl⟩
  · next hct =>
    split at h <;> cases h
    exact .inl ⟨_, (packRow_length s (fun p => [p.r, p.g, p.b]) 3 fun _ => rfl).trans (rowb_of_colorType hct).symm, rfl⟩
  · next hct =>
    split at h <;> cases h
    show (∃ row, _ ∧ execPackIdx8 s.cfg.bitDepth s = _) ∨ (∃ v, execPackIdx8 s.cfg.bitDepth s = _)
    unfold execPackIdx8
    split
    · exact .inr ⟨_, rfl⟩
    · exact .inl ⟨_, by simp [rowb_of_colorType hct, sppOf], rfl⟩
  · cases h

/-- ENCODE_STEP in a run of the encode direction, with the length of the packed row. -/
theorem encodeStep_cases_rowb {s : State} (hs : s.status = .running) (hdir : s.cfg.direction = .encode) :
    (∃ ft cur k v, k ≠ .none ∧ encodeStep s = .next ({ s with ft := ft, cur := cur }.raise k s.y v)) ∨
    (∃ ft row b pred, row.length = s.cfg.rowb ∧
      encodeStep s = .next (filterRow b pred { s.setCur row with ft := ft }).nextRow.finishEncode) := by
  unfold encodeStep
  simp only [decode_mode_encode]
  cases h : decodePack s.cfg.bitDepth s.cfg.colorType with
  | error e => exact .inl ⟨s.ft, s.cur, _, _, decodeErrorKind_pack_ne_none h, rfl⟩
  | ok m =>
    rcases exec_of_decodePack_rowb hdir h with ⟨row, hlen, hx⟩ | ⟨v, hx⟩
    · simp only [Except.map, hx, andThen_next]
      rw [if_pos (by exact hs)]
      rcases encodeScanline_cases (s.setCur row) with ⟨ft, k, v, hk, he⟩ | ⟨ft, b, pred, he⟩
      · exact .inl ⟨ft, (s.setCur row).cur, k, v, hk, he⟩
      · exact .inr ⟨ft, row, b, pred, hlen, he⟩
    · simp only [Except.map, hx, andThen_next, State.raise_status, reduceCtorEq, if_false]
      exact .inl ⟨s.ft, s.cur, .paletteMiss, v, by decide, rfl⟩

/-! ### The engine's turn while Running -/

/-- From `s` to `t` the row Y of a run has been executed (44_control R228, R229): Y and IP have moved to the next row, PREV holds
the ROWB bytes of this one, and the run is Done exactly when Y has reached HEIGHT. -/
structure RowCompleted (s t : State) : Prop where
  y : t.y = s.y + 1
  ip : t.ip = s.ip + s.cfg.slen
  prev : t.prev = t.cur
  prev_length : t.prev.bytes.length = s.cfg.rowb
  err : t.err = s.err
  height : t.cfg.height = s.cfg.height
  status : t.status = if t.y = s.cfg.height then .done else .running
  cfg : t.status = .running → t.cfg = s.cfg

/-- The end of a row in the decode direction. -/
theorem rowCompleted_decode {s : State} (hs : s.status = .running) (ft : Byte) (pred : Predictor) (pixel : Nat → Rgba) :
    RowCompleted s (endDecodeRow (unpackRow (unfilter pred { s with ft := ft }) pixel)) := by
  rw [endDecodeRow, if_pos (by exact hs)]
  exact
    { y := by rw [State.finishDecode_y]; rfl
      ip := by rw [State.finishDecode_ip]; rfl
      prev := by rw [State.finishDecode_prev, State.finishDecode_cur]; rfl
      prev_length := by rw [State.finishDecode_prev]; exact recoverRow_length ..
      err := by rw [State.finishDecode_err]; rfl
      height := by rw [State.finishDecode_cfg]; rfl
      status := by rw [State.finishDecode_status, State.finishDecode_y, ← hs]; rfl
      cfg := fun _ => by rw [State.finishDecode_cfg]; rfl }

/-- The end of a row in the encode direction, over a packed row of ROWB bytes. -/
theorem rowCompleted_encode {s : State} (hs : s.status = .running) {row : List Byte} (hlen : row.length = s.cfg.rowb)
    (ft b : Byte) (pred : Predictor) :
    RowCompleted s (filterRow b pred { s.setCur row with ft := ft }).nextRow.finishEncode where
  y := by rw [State.finishEncode_y]; rfl
  ip := by rw [State.finishEncode_ip]; rfl
  prev := by rw [State.finishEncode_prev, State.finishEncode_cur]; rfl
  prev_length := by rw [State.finishEncode_prev]; exact hlen
  err := by rw [State.finishEncode_err]; rfl
  height := by rw [State.finishEncode_cfg]; split <;> rfl
  status := by rw [State.finishEncode_status, State.finishEncode_y, ← hs]; rfl
  cfg := by
    rw [State.finishEncode_status, State.finishEncode_cfg]
    split
    · rintro ⟨⟩
    · exact fun _ => rfl

/-- What a turn of the engine can do while Running: a fault raised at row Y over a state that differs in FT and CUR alone, or a
completed row (44_control R226, R231). -/
theorem engineStep_running_cases {s t : State} (hs : s.status = .running) (h : engineStep s = .next t) :
    (∃ ft cur k v, k ≠ .none ∧ t = { s with ft := ft, cur := cur }.raise k s.y v) ∨ RowCompleted s t := by
  rcases engineStep_cases h with ⟨hn, -⟩ | ⟨-, -, h⟩ | ⟨-, hdir, h⟩
  · exact absurd hs hn
  · rcases decodeStep_cases s with ⟨ft, cur, k, v, hk, he⟩ | ⟨ft, pred, pixel, -, -, he⟩ <;> cases he.symm.trans h
    · exact .inl ⟨ft, cur, k, v, hk, rfl⟩
    · exact .inr (rowCompleted_decode hs ft pred pixel)
  · rcases encodeStep_cases_rowb hs hdir with ⟨ft, cur, k, v, hk, he⟩ | ⟨ft, row, b, pred, hlen, he⟩ <;> cases he.symm.trans h
    · exact .inl ⟨ft, cur, k, v, hk, rfl⟩
    · exact .inr (rowCompleted_encode hs hlen ft b pred)

end Sys2Proof.Machine
end

section
/-! PROOFS. The run invariants of 10_state: every step keeps a run consistent, and ERR holds a kind exactly in Faulted (R42, R43, R48,
R49). -/

namespace Sys2Proof.Machine

/-! ### The invariants in the states a step can leave -/

/-- RunConsistent says nothing outside a run. -/
theorem runConsistent_of_not_running {s : State} (h : s.status ≠ .running) : RunConsistent s := fun hs => absurd hs h

/-- Outside Faulted, FaultRecorded says that ERR holds no kind. -/
theorem faultRecorded_of_not_faulted {s : State} (hs : s.status ≠ .faulted) (he : s.err = .none) : FaultRecorded s :=
  iff_of_false hs (not_not.mpr he)

/-- A raise meets both invariants. -/
theorem raise_meets_invariants (s : State) {k : ErrKind} (hk : k ≠ .none) (row info : BitVec 32) :
    RunConsistent (s.raise k row info) ∧ FaultRecorded (s.raise k row info) :=
  ⟨runConsistent_of_not_running (by simp), iff_of_true rfl hk⟩

/-! ### The engine -/

/-- A completed row keeps both invariants. -/
theorem RowCompleted.keeps_invariants {s t : State} (h : RowCompleted s t) (hs : s.status = .running) (hr : RunConsistent s)
    (hf : FaultRecorded s) : RunConsistent t ∧ FaultRecorded t := by
  obtain ⟨hcheck, hip, hy, -⟩ := hr hs
  have hy' : t.y.toNat = s.y.toNat + 1 := by rw [h.y]; bv_omega
  refine ⟨fun ht => ?_, faultRecorded_of_not_faulted ?_ ?_⟩
  · have hne : t.y ≠ s.cfg.height := fun he => by simp [h.status, he] at ht
    have hne' : t.y.toNat ≠ s.cfg.height.toNat := fun he => hne (BitVec.eq_of_toNat_eq he)
    rw [h.cfg ht]
    refine ⟨hcheck, ?_, by omega, h.prev_length⟩
    rw [h.ip, hip, hy', Nat.succ_mul]
  · rw [h.status]; split <;> simp
  · have hn := mt hf.2 (by simp [hs])
    rw [h.err]; exact not_not.mp hn

/-- A turn of the engine keeps both invariants. -/
theorem engineStep_keeps_invariants {s t : State} (h : engineStep s = .next t) (hr : RunConsistent s) (hf : FaultRecorded s) :
    RunConsistent t ∧ FaultRecorded t := by
  by_cases hs : s.status = .running
  · rcases engineStep_running_cases hs h with ⟨ft, cur, k, v, hk, rfl⟩ | hrow
    · exact raise_meets_invariants _ hk _ _
    · exact hrow.keeps_invariants hs hr hf
  · cases (engineStep_not_running hs).symm.trans h
    exact ⟨hr, hf⟩

/-! ### START -/

/-- A configuration that passes START's checks has a row (44_control R224 check 3). -/
theorem height_pos_of_startCheck {c : Cfg} (h : startCheck c = none) : 0 < c.height.toNat := by
  unfold startCheck at h
  split at h
  · cases h
  split at h
  · cases h
  split at h
  · cases h
  · next hdim =>
    simp only [legalDim, Bool.not_eq_true', Bool.and_eq_false_iff, not_or, Bool.not_eq_false, decide_eq_true_eq] at hdim
    exact hdim.2.1

/-- The checks of the encode direction do not read what the prelude writes (43_pack R206). -/
theorem startCheck_outputPalette {s : State} (hdir : s.cfg.direction = .encode) :
    startCheck (outputPalette s).cfg = startCheck s.cfg := by
  have hdir' : (outputPalette s).cfg.direction = .encode := hdir
  simp only [startCheck, hdir, hdir']
  rfl

/-- The run that an accepted START has begun from `s` (44_control R225). -/
structure RunBegun (s t : State) : Prop where
  status : t.status = .running
  err : t.err = .none
  y : t.y = 0
  ip : t.ip = 0
  prev : t.prev.bytes = List.replicate t.cfg.rowb 0
  check : startCheck t.cfg = startCheck s.cfg

/-- What an accepted START can answer: BadPalette by the prelude, or the run has begun. -/
theorem acceptStart_begins {s t : State} (h : acceptStart s = .next t) :
    (∃ u, t = State.raise u .badPalette 0 0) ∨ RunBegun s t := by
  rcases acceptStart_cases h with ⟨-, rfl⟩ | ⟨hdir, -, epal, -, rfl⟩
  · exact .inr ⟨rfl, rfl, rfl, rfl, rfl, rfl⟩
  · rcases limitPalette_cases (scannedState s epal) (paletteLimit s.cfg (effectiveDepth s.cfg.bitDepth epal.length)) with
      ⟨-, he⟩ | ⟨-, -, he⟩ | ⟨-, -, he⟩ <;> rw [he]
    · exact .inr ⟨rfl, rfl, rfl, rfl, rfl, startCheck_outputPalette hdir⟩
    · exact .inr ⟨rfl, rfl, rfl, rfl, rfl, startCheck_outputPalette hdir⟩
    · exact .inl ⟨_, rfl⟩

/-- A run that has begun under a configuration that passes the checks meets both invariants. -/
theorem RunBegun.meets_invariants {s t : State} (h : RunBegun s t) (hc : startCheck s.cfg = none) :
    RunConsistent t ∧ FaultRecorded t := by
  have hcheck : startCheck t.cfg = none := h.check.trans hc
  refine ⟨fun _ => ⟨hcheck, ?_, ?_, ?_⟩, faultRecorded_of_not_faulted (by simp [h.status]) h.err⟩
  · simp [h.ip, h.y]
  · simpa [h.y] using height_pos_of_startCheck hcheck
  · simp [h.prev]

/-- START keeps both invariants. -/
theorem execStart_keeps_invariants {s t : State} (h : execStart s = .next t) (hr : RunConsistent s) (hf : FaultRecorded s) :
    RunConsistent t ∧ FaultRecorded t := by
  rcases execStart_cases h with ⟨-, rfl⟩ | ⟨-, -, k, hk, rfl⟩ | ⟨-, -, hc, ha⟩
  · exact ⟨hr, hf⟩
  · exact raise_meets_invariants s (startCheck_ne_none hk) 0 0
  · rcases acceptStart_begins ha with ⟨u, rfl⟩ | hb
    · exact raise_meets_invariants u (by decide) 0 0
    · exact hb.meets_invariants hc

/-! ### The host -/

/-- What the host does to the block keeps both invariants: outside START and RESET, STATE and ERR stay, and while Running so does all
that a run's consistency speaks of. -/
theorem HostEffect.keeps_invariants {s t : State} (h : HostEffect s t) (hr : RunConsistent s) (hf : FaultRecorded s) :
    RunConsistent t ∧ FaultRecorded t := by
  cases h with
  | nothing => exact ⟨hr, hf⟩
  | read d n _ => exact ⟨hr, hf⟩
  | config c hs => exact ⟨runConsistent_of_not_running hs, hf⟩
  | pal k c hs => exact ⟨runConsistent_of_not_running hs, hf⟩
  | apal k a hs => exact ⟨runConsistent_of_not_running hs, hf⟩
  | fstream a b hs => exact ⟨runConsistent_of_not_running hs, hf⟩
  | pix a b hs => exact ⟨runConsistent_of_not_running hs, hf⟩
  | start _ h => exact execStart_keeps_invariants h hr hf
  | reset =>
    have hidle : (resetState s).status = .idle := rfl
    exact ⟨runConsistent_of_not_running (by simp [hidle]), faultRecorded_of_not_faulted (by simp [hidle]) rfl⟩

/-- Settles O50: neither invariant speaks of the host's coming moves, and the engine's turn and every effect of the host keep
both. -/
theorem stepKeepsRunConsistent : Obligations.StepKeepsRunConsistent := by
  intro s t hr hf h
  obtain ⟨p, he | he⟩ := step_cases h
  · exact engineStep_keeps_invariants he hr hf
  · exact he.keeps_invariants hr hf

end Sys2Proof.Machine
end

section
/-! PROOFS. The host's moves (44_control R220, R233): the commands among them, what the others leave alone, and that STATE has the
transitions of 10_state R42 and no other. -/

namespace Sys2Proof.Machine

/-! ### Commands (10_state R50, 30_encoding R105) -/

/-- The command code a move writes to CMD, by name or as register 48. -/
def HostMove.command? : HostMove → Option Byte
  | .cmd code => some code
  | .regWrite index v => if index = 48 then some (BitVec.ofNat 8 v) else none
  | _ => none

/-- The two moves that write a command code. -/
theorem HostMove.command?_eq_some {m : HostMove} {code : Byte} (h : m.command? = some code) :
    m = .cmd code ∨ ∃ v, m = .regWrite 48 v ∧ BitVec.ofNat 8 v = code := by
  unfold HostMove.command? at h
  split at h
  · cases h; exact .inl rfl
  · next index v =>
    split at h <;> cases h
    next hi => exact .inr ⟨v, by rw [hi], rfl⟩
  · cases h

/-- A move that writes a command code runs that command. -/
theorem hostMove_of_command {m : HostMove} {code : Byte} (h : m.command? = some code) (s : State) :
    hostMove m s = hostCommand s code := by
  obtain rfl | ⟨v, rfl, rfl⟩ := HostMove.command?_eq_some h <;> rfl

/-- A move that writes a command code, as the statements have it. -/
theorem commandNext_of_command {s : State} {m : HostMove} {rest : List HostMove} {code : Byte} (hp : s.pending = m :: rest)
    (h : m.command? = some code) : CommandNext s code := by
  obtain rfl | ⟨v, rfl, rfl⟩ := HostMove.command?_eq_some h
  · exact ⟨rest, 0, .inl hp⟩
  · exact ⟨rest, v, .inr ⟨hp, (BitVec.toNat_ofNat v 8).symm⟩⟩

/-- What each command code does. -/
theorem hostCommand_cases_code {s t : State} {code : Byte} (h : hostCommand s code = .next t) :
    (code = 0 ∧ t = s) ∨ (code = 1 ∧ execStart s = .next t) ∨ (code = 2 ∧ t = resetState s) := by
  unfold hostCommand at h
  rw [decode_command] at h
  cases hd : decodeCommand code with
  | error e => rw [hd] at h; cases h
  | ok i =>
    rw [hd] at h
    unfold decodeCommand at hd
    split at hd <;> cases hd
    · next hc => cases h; exact .inl ⟨BitVec.eq_of_toNat_eq hc, rfl⟩
    · next hc => exact .inr (.inl ⟨BitVec.eq_of_toNat_eq hc, h⟩)
    · next hc => cases h; exact .inr (.inr ⟨BitVec.eq_of_toNat_eq hc, rfl⟩)

/-! ### The other moves -/

/-- From `s` to `t` the host has at most written the configuration, a table or a space, or read something: STATE, the registers and
row buffers of the run and the scratch palette stay. -/
def RunUntouched (s t : State) : Prop :=
  t = { s with
    cfg := t.cfg
    pal := t.pal
    apal := t.apal
    fstream := t.fstream
    pix := t.pix
    pending := t.pending
    hostData := t.hostData
    freeCount := t.freeCount }

theorem RunUntouched.status {s t : State} (h : RunUntouched s t) : t.status = s.status := by
  rw [show t = _ from h]

theorem RunUntouched.of_byteRead (s : State) (m : Memory) (o : Bool) (a : Nat) : RunUntouched s (hostByteRead s m o a) := by
  unfold hostByteRead; split <;> rfl

/-- A move that is no command leaves the run alone, or gives the turn to the engine. -/
theorem hostMove_untouched {m : HostMove} (hm : m.command? = none) {s t : State} (h : hostMove m s = .next t) :
    engineStep s = .next t ∨ RunUntouched s t := by
  cases m with
  | regRead index =>
    simp only [hostMove, hostRegRead] at h
    split at h
    · cases h; exact .inr rfl
    · split at h <;> cases h
  | regWrite index v =>
    have hi : index ≠ 48 := fun hi => by simp [HostMove.command?, hi] at hm
    simp only [hostMove, hostRegWrite, if_neg hi] at h
    split at h
    · split at h <;> cases h <;> exact .inr rfl
    · split at h <;> cases h
  | palWrite k c =>
    simp only [hostMove] at h
    split at h <;> cases h <;> exact .inr rfl
  | palRead k =>
    simp only [hostMove] at h
    split at h
    · cases h; exact .inr rfl
    · split at h <;> cases h <;> exact .inr rfl
  | apalWrite k a =>
    simp only [hostMove] at h
    split at h <;> cases h <;> exact .inr rfl
  | apalRead k =>
    simp only [hostMove] at h
    split at h
    · cases h; exact .inr rfl
    · split at h <;> cases h <;> exact .inr rfl
  | fstreamWrite a b =>
    simp only [hostMove] at h
    split at h <;> cases h
    exact .inr rfl
  | fstreamRead a => cases h; exact .inr (.of_byteRead ..)
  | pixWrite a b =>
    simp only [hostMove] at h
    split at h <;> cases h
    exact .inr rfl
  | pixRead a => cases h; exact .inr (.of_byteRead ..)
  | cmd code => cases hm
  | yield => exact .inl h
  | await => exact .inl h

/-! ### The transitions of STATE (10_state R42) -/

/-- A step makes the host's next move, an await apart. -/
theorem step_of_pending_cons {s : State} {m : HostMove} {rest : List HostMove} (h : s.pending = m :: rest) (hm : m ≠ .await) :
    step s = hostMove m { s with pending := rest } := by
  unfold step turn
  rw [h]
  split
  · next heq => cases heq
  · next heq => cases heq; exact absurd rfl hm
  · next heq => cases heq; rfl

/-- What a step can do, with the command named: with `p` the moves still to come, the engine takes its turn, or the command the host
has written is run, or the run is left alone. -/
theorem step_cases_command {s t : State} (h : step s = .next t) :
    (∃ p, engineStep { s with pending := p } = .next t) ∨
    (∃ p code, CommandNext s code ∧ hostCommand { s with pending := p } code = .next t) ∨
    RunUntouched s t := by
  cases hp : s.pending with
  | nil => exact .inl ⟨s.pending, (step_of_pending_nil hp).symm.trans h⟩
  | cons m rest =>
    by_cases hw : m = .await
    · subst hw
      simp only [step, turn, hp] at h
      split at h
      · exact .inl ⟨s.pending, h⟩
      · cases h; exact .inr (.inr rfl)
    rw [step_of_pending_cons hp hw] at h
    cases hc : m.command? with
    | none =>
      rcases hostMove_untouched hc h with he | hu
      · exact .inl ⟨rest, he⟩
      · exact .inr (.inr hu)
    | some code =>
      exact .inr (.inl ⟨rest, code, commandNext_of_command hp hc, (hostMove_of_command hc _).symm.trans h⟩)

/-- The transitions a turn of the engine can make: none, from Running to Done at the last row, or from Running to Faulted. -/
theorem engineStep_transition {s t : State} (h : engineStep s = .next t) :
    t.status = s.status ∨
    (s.status = .running ∧ ((t.status = .done ∧ t.y = t.cfg.height) ∨ (t.status = .faulted ∧ t.err ≠ .none))) := by
  by_cases hs : s.status = .running
  · rcases engineStep_running_cases hs h with ⟨ft, cur, k, v, hk, rfl⟩ | hrow
    · exact .inr ⟨hs, .inr ⟨rfl, hk⟩⟩
    · by_cases hy : t.y = s.cfg.height
      · exact .inr ⟨hs, .inl ⟨hrow.status.trans (if_pos hy), hy.trans hrow.height.symm⟩⟩
      · exact .inl ((hrow.status.trans (if_neg hy)).trans hs.symm)
  · cases (engineStep_not_running hs).symm.trans h
    exact .inl rfl

/-- The transitions START can make: none, from Idle or Done to Running when the checks pass, or from Idle or Done to Faulted. -/
theorem execStart_transition {s t : State} (h : execStart s = .next t) :
    t.status = s.status ∨
    (MayStart s ∧ ((t.status = .running ∧ startCheck s.cfg = none) ∨ (t.status = .faulted ∧ t.err ≠ .none))) := by
  have mayStart (hr : s.status ≠ .running) (hf : s.status ≠ .faulted) : MayStart s := by
    unfold MayStart
    cases hs : s.status <;> simp_all
  rcases execStart_cases h with ⟨-, rfl⟩ | ⟨hr, hf, k, hk, rfl⟩ | ⟨hr, hf, hc, ha⟩
  · exact .inl rfl
  · exact .inr ⟨mayStart hr hf, .inr ⟨rfl, startCheck_ne_none hk⟩⟩
  · rcases acceptStart_begins ha with ⟨u, rfl⟩ | hb
    · exact .inr ⟨mayStart hr hf, .inr ⟨rfl, by simp⟩⟩
    · exact .inr ⟨mayStart hr hf, .inl ⟨hb.status, hc⟩⟩

/-- Settles O39: STATE moves by a turn of the engine or by a command, and of the commands NOP moves nothing. -/
theorem stateTransitions : Obligations.StateTransitions := by
  intro s t h
  rcases step_cases_command h with ⟨p, he⟩ | ⟨p, code, hcmd, he⟩ | hu
  · rcases engineStep_transition he with hst | hrun
    · exact .inl hst
    · exact .inr (.inr (.inl hrun))
  · rcases hostCommand_cases_code he with ⟨-, rfl⟩ | ⟨rfl, hx⟩ | ⟨rfl, rfl⟩
    · exact .inl rfl
    · rcases execStart_transition hx with hst | ⟨hmay, hto⟩
      · exact .inl hst
      · exact .inr (.inl ⟨hmay, hcmd, hto⟩)
    · exact .inr (.inr (.inr ⟨rfl, hcmd⟩))
  · exact .inl hu.status

end Sys2Proof.Machine
end

section
/-! PROOFS. Register indices that name nothing, the moves the spec gives no meaning (93_implementation_defined U4, U5, U7), and the
values after power-on (10_state R57). -/

namespace Sys2Proof.Machine

/-! ### Register indices (10_state R24) -/

/-- The RW registers have the indices 0 to 21. -/
theorem readCfg_eq_none (c : Cfg) {i : Nat} (h : 22 ≤ i) : readCfg c i = none := by
  obtain ⟨n, rfl⟩ := Nat.exists_eq_add_of_le' h
  rfl

theorem writeCfg_eq_none (c : Cfg) {i : Nat} (v : Nat) (h : 22 ≤ i) : writeCfg c i v = none := by
  obtain ⟨n, rfl⟩ := Nat.exists_eq_add_of_le' h
  rfl

/-- The RO registers have the indices 32 to 39. -/
theorem readStatus_isSome_iff (s : State) (i : Nat) : (readStatus s i).isSome ↔ 32 ≤ i ∧ i ≤ 39 := by
  unfold readStatus
  split
  case h_9 => exact iff_of_false (by simp) fun ⟨hlo, hhi⟩ => by interval_cases i <;> contradiction
  all_goals exact iff_of_true rfl (by decide)

/-- A read of an index that is neither a register's nor CMD's is refused. -/
theorem hostRegRead_noSuchRegister (s : State) {i : Nat} (hi : 22 ≤ i) (hro : ¬(32 ≤ i ∧ i ≤ 39)) (hcmd : i ≠ 48) :
    hostRegRead s i = .refused (.noSuchRegister i) := by
  have hnone : readStatus s i = none := by simpa using mt (readStatus_isSome_iff s i).mp hro
  simp [hostRegRead, regValue, readCfg_eq_none s.cfg hi, hnone, hcmd]

/-- A read of CMD is refused (10_state R50). -/
theorem hostRegRead_cmd (s : State) : hostRegRead s 48 = .refused (.writeOnlyRegister 48) := rfl

/-- A write of an index that is no RW register's and not CMD's is refused, by the name of what the index stands for. -/
theorem hostRegWrite_refused (s : State) {i : Nat} (v : Nat) (hi : 22 ≤ i) (hcmd : i ≠ 48) :
    hostRegWrite s i v = .refused (if 32 ≤ i ∧ i ≤ 39 then .readOnlyRegister i else .noSuchRegister i) := by
  simp only [hostRegWrite, if_neg hcmd, writeCfg_eq_none s.cfg v hi, readStatus_isSome_iff]
  split <;> rfl

/-! ### Refused moves -/

/-- A reserved command code is refused (30_encoding R106). -/
theorem hostCommand_reserved (s : State) {code : Byte} (h : 2 < code.toNat) :
    hostCommand s code = .refused (.reservedCommand code) := by
  have hd : decodeCommand code = .error (.reservedCommand code) := by
    unfold decodeCommand
    split
    · omega
    · omega
    · omega
    · rfl
  rw [hostCommand, decode_command, hd]
  rfl

/-- While Running a write of either space is refused (70_reset_and_hazards R290). -/
theorem hostMove_spaceWrite_running {s : State} (hs : s.status = .running) (a : Nat) (b : Byte) :
    hostMove (.fstreamWrite a b) s = .refused .memoryWriteWhileRunning ∧
    hostMove (.pixWrite a b) s = .refused .memoryWriteWhileRunning :=
  ⟨if_pos hs, if_pos hs⟩

/-- Settles O46: a step makes the host's next move, and each of these moves is refused by name. -/
theorem meaninglessMovesRefused : Obligations.MeaninglessMovesRefused := by
  intro s rest
  refine ⟨fun code hc hp => ?_, fun i v hi => ⟨fun hp => ?_, fun hp => ?_⟩, fun i v hlo hhi hp => ?_, fun hp => ?_,
    fun a b hs hp => ?_⟩
  · rw [step_of_pending_cons hp (by simp)]
    exact hostCommand_reserved _ hc
  · rw [step_of_pending_cons hp (by simp)]
    exact hostRegRead_noSuchRegister _ (by omega) (by omega) (by omega)
  · rw [step_of_pending_cons hp (by simp)]
    exact (hostRegWrite_refused _ v (by omega) (by omega)).trans (by rw [if_neg (by omega)])
  · rw [step_of_pending_cons hp (by simp)]
    exact (hostRegWrite_refused _ v (by omega) (by omega)).trans (by rw [if_pos ⟨hlo, hhi⟩])
  · rw [step_of_pending_cons hp (by simp)]
    exact hostRegRead_cmd { s with pending := rest }
  · obtain ⟨hf, hx⟩ := hostMove_spaceWrite_running (s := { s with pending := rest }) hs a b
    rcases hp with hp | hp <;> rw [step_of_pending_cons hp (by simp)]
    · exact hf
    · exact hx

/-! ### Power-on (10_state R57, 70_reset_and_hazards R282) -/

/-- A START whose checks fail raises the first failing check's kind (44_control R224). -/
theorem execStart_of_check_fails {s : State} {k : ErrKind} (hs : MayStart s) (hk : startCheck s.cfg = some k) :
    execStart s = .next (s.raise k 0 0) := by
  rcases hs with hs | hs <;> simp only [execStart, hs, hk]

/-- After power-on WIDTH = HEIGHT = 0, which check 3 of START turns away. -/
theorem startCheck_reset : startCheck State.reset.cfg = some .badHeader := by decide

/-- Settles O48: the values of R57 register by register, and the first failing check of START under them. -/
theorem resetValues : Obligations.ResetValues := by
  refine ⟨by decide, fun i hlo hhi => ?_, rfl, rfl, _, execStart_of_check_fails (.inl rfl) startCheck_reset, rfl, rfl⟩
  interval_cases i <;> rfl

end Sys2Proof.Machine
end

section
/-! PROOFS. The two spaces (20_memory): what a turn of the engine and a RESET do to them, that every step keeps the spaces and tables
canonical, and that a run never writes its input space (R71, R78). -/

namespace Sys2Proof.Machine

/-! ### The spaces after a completed row (20_memory R70 to R78) -/

/-- From `s` to `t` a decode run has executed row Y: the 4 * WIDTH bytes of the row have been written to PIX, and FSTREAM, the tables
and the host's coming moves stay. -/
structure RowUnpacked (s t : State) : Prop extends RowCompleted s t where
  pix : ∃ row : List Byte, row.length = s.cfg.width.toNat * 4 ∧ t.pix = s.pix.writeList (pixelBase s.cfg 0 s.y.toNat) row
  fstream : t.fstream = s.fstream
  pal : t.pal = s.pal
  apal : t.apal = s.apal
  pending : t.pending = s.pending

/-- From `s` to `t` an encode run has executed row Y: the SLEN bytes of the scanline have been written to FSTREAM, and PIX, the tables
and the host's coming moves stay. -/
structure RowFiltered (s t : State) : Prop extends RowCompleted s t where
  fstream : ∃ line : List Byte, line.length = s.cfg.slen ∧ t.fstream = s.fstream.writeList s.ip line
  pix : t.pix = s.pix
  pal : t.pal = s.pal
  apal : t.apal = s.apal
  pending : t.pending = s.pending

theorem endDecodeRow_of_running {s : State} (hs : s.status = .running) : endDecodeRow s = s.nextRow.finishDecode := if_pos hs

/-- The end of a row in the decode direction, with the spaces. -/
theorem rowUnpacked_endDecodeRow {s : State} (hs : s.status = .running) (ft : Byte) (pred : Predictor) (pixel : Nat → Rgba) :
    RowUnpacked s (endDecodeRow (unpackRow (unfilter pred { s with ft := ft }) pixel)) := by
  have hend := endDecodeRow_of_running (s := unpackRow (unfilter pred { s with ft := ft }) pixel) hs
  exact
    { toRowCompleted := rowCompleted_decode hs ft pred pixel
      pix := ⟨_, rowBytes_length _ pixel, by rw [hend, State.finishDecode_pix]; rfl⟩
      fstream := by rw [hend, State.finishDecode_fstream]; rfl
      pal := by rw [hend, State.finishDecode_pal]; rfl
      apal := by rw [hend, State.finishDecode_apal]; rfl
      pending := by rw [hend, State.finishDecode_pending]; rfl }

/-- The end of a row in the encode direction, with the spaces. -/
theorem rowFiltered_finishEncode {s : State} (hs : s.status = .running) {row : List Byte} (hlen : row.length = s.cfg.rowb)
    (ft b : Byte) (pred : Predictor) :
    RowFiltered s (filterRow b pred { s.setCur row with ft := ft }).nextRow.finishEncode where
  toRowCompleted := rowCompleted_encode hs hlen ft b pred
  fstream := ⟨b :: filteredRow pred { s.setCur row with ft := ft },
    by simp [Cfg.slen, Nat.add_comm], by rw [State.finishEncode_fstream]; rfl⟩
  pix := by rw [State.finishEncode_pix]; rfl
  pal := by rw [State.finishEncode_pal]; rfl
  apal := by rw [State.finishEncode_apal]; rfl
  pending := by rw [State.finishEncode_pending]; rfl

/-- What a turn of the engine can do to the spaces while Running: it faults over a state that differs in FT and CUR alone, or it
executes a row in the direction of the run. -/
theorem engineStep_row_cases {s t : State} (hs : s.status = .running) (h : engineStep s = .next t) :
    (∃ ft cur k v, t = { s with ft := ft, cur := cur }.raise k s.y v) ∨
    (s.cfg.direction = .decode ∧ RowUnpacked s t) ∨
    (s.cfg.direction = .encode ∧ RowFiltered s t) := by
  rcases engineStep_cases h with ⟨hn, -⟩ | ⟨-, hdir, h⟩ | ⟨-, hdir, h⟩
  · exact absurd hs hn
  · rcases decodeStep_cases s with ⟨ft, cur, k, v, -, he⟩ | ⟨ft, pred, pixel, -, -, he⟩ <;> cases he.symm.trans h
    · exact .inl ⟨ft, cur, k, v, rfl⟩
    · exact .inr (.inl ⟨hdir, rowUnpacked_endDecodeRow hs ft pred pixel⟩)
  · rcases encodeStep_cases_rowb hs hdir with ⟨ft, cur, k, v, -, he⟩ | ⟨ft, row, b, pred, hlen, he⟩ <;> cases he.symm.trans h
    · exact .inl ⟨ft, cur, k, v, rfl⟩
    · exact .inr (.inr ⟨hdir, rowFiltered_finishEncode hs hlen ft b pred⟩)

/-! ### The spaces after RESET (44_control R232) -/

theorem resetState_fstream (s : State) :
    (resetState s).fstream = if s.status = .running then s.scrambleOutput.fstream else s.fstream :=
  apply_ite State.fstream _ _ _

theorem resetState_pix (s : State) : (resetState s).pix = if s.status = .running then s.scrambleOutput.pix else s.pix :=
  apply_ite State.pix _ _ _

/-! ### The canonical form -/

/-- An output space that has become unspecified lists nothing, which is canonical. -/
theorem MemoryCanonical.scrambleOutput {s : State} (hc : MemoryCanonical s) : MemoryCanonical s.scrambleOutput := by
  obtain ⟨hf, hx, hp, ha⟩ := hc
  unfold State.scrambleOutput
  split
  · exact ⟨hf, Store.wf_unwritten _, hp, ha⟩
  · exact ⟨Store.wf_unwritten _, hx, Store.wf_unwritten _, Store.wf_unwritten _⟩

theorem MemoryCanonical.raise {s : State} (hc : MemoryCanonical s) (k : ErrKind) (row info : BitVec 32) :
    MemoryCanonical (s.raise k row info) := hc.scrambleOutput

theorem MemoryCanonical.outputPalette {s : State} (hc : MemoryCanonical s) : MemoryCanonical (outputPalette s) := by
  obtain ⟨hf, hx, hp, ha⟩ := hc
  exact ⟨hf, hx, Store.wf_writeList _ _ hp, Store.wf_writeList _ _ ha⟩

theorem MemoryCanonical.resetState {s : State} (hc : MemoryCanonical s) : MemoryCanonical (resetState s) := by
  have ⟨hf, hx, _, _⟩ := hc
  have ⟨hf', hx', _, _⟩ := hc.scrambleOutput
  refine ⟨?_, ?_, Store.wf_unwritten _, Store.wf_unwritten _⟩
  · rw [resetState_fstream]; split <;> assumption
  · rw [resetState_pix]; split <;> assumption

/-- A turn of the engine keeps the canonical form: a row is a list of writes to one of the spaces. -/
theorem engineStep_keeps_canonical {s t : State} (h : engineStep s = .next t) (hc : MemoryCanonical s) : MemoryCanonical t := by
  by_cases hs : s.status = .running
  · rcases engineStep_row_cases hs h with ⟨ft, cur, k, v, rfl⟩ | ⟨-, hrow⟩ | ⟨-, hrow⟩
    · exact MemoryCanonical.raise (s := { s with ft := ft, cur := cur }) hc k s.y v
    · obtain ⟨row, -, hpix⟩ := hrow.pix
      obtain ⟨hf, hx, hp, ha⟩ := hc
      exact ⟨hrow.fstream ▸ hf, hpix ▸ Store.wf_writeList _ _ hx, hrow.pal ▸ hp, hrow.apal ▸ ha⟩
    · obtain ⟨line, -, hfstream⟩ := hrow.fstream
      obtain ⟨hf, hx, hp, ha⟩ := hc
      exact ⟨hfstream ▸ Store.wf_writeList _ _ hf, hrow.pix ▸ hx, hrow.pal ▸ hp, hrow.apal ▸ ha⟩
  · cases (engineStep_not_running hs).symm.trans h
    exact hc

/-- START keeps the canonical form: it writes a space or a table only through the prelude's palette output or a raise. -/
theorem execStart_keeps_canonical {s t : State} (h : execStart s = .next t) (hc : MemoryCanonical s) : MemoryCanonical t := by
  rcases execStart_cases h with ⟨-, rfl⟩ | ⟨-, -, k, -, rfl⟩ | ⟨-, -, -, hacc⟩
  · exact hc
  · exact hc.raise k 0 0
  · rcases acceptStart_cases hacc with ⟨-, rfl⟩ | ⟨-, -, epal, -, rfl⟩
    · exact hc
    · have hscan : MemoryCanonical (scannedState s epal) := hc
      rcases limitPalette_cases (scannedState s epal) (paletteLimit s.cfg (effectiveDepth s.cfg.bitDepth epal.length)) with
        ⟨-, he⟩ | ⟨-, -, he⟩ | ⟨-, -, he⟩ <;> rw [he]
      · exact hscan.outputPalette
      · exact MemoryCanonical.outputPalette hc
      · exact hscan.raise .badPalette 0 0

/-- What the host does to the block keeps the canonical form. -/
theorem HostEffect.keeps_canonical {s t : State} (h : HostEffect s t) (hc : MemoryCanonical s) : MemoryCanonical t := by
  have ⟨hf, hx, hp, ha⟩ := hc
  cases h with
  | nothing => exact hc
  | config c _ => exact hc
  | read d n _ => exact hc
  | pal k c _ => exact ⟨hf, hx, Store.wf_write k c hp, ha⟩
  | apal k a _ => exact ⟨hf, hx, hp, Store.wf_write k a ha⟩
  | fstream a b _ => exact ⟨Store.wf_writeList a [b] hf, hx, hp, ha⟩
  | pix a b _ => exact ⟨hf, Store.wf_writeList a [b] hx, hp, ha⟩
  | start _ h => exact execStart_keeps_canonical h hc
  | reset => exact hc.resetState

/-- Settles O49: the canonical form does not speak of the host's coming moves, and the engine's turn and every effect of the host
keep it. -/
theorem stepKeepsCanonical : Obligations.StepKeepsCanonical := by
  intro s t hc h
  obtain ⟨p, he | he⟩ := step_cases h
  · exact engineStep_keeps_canonical he hc
  · exact he.keeps_canonical hc

/-! ### The input space of a run (20_memory R71, R78) -/

/-- From `s` to `t` the input space of the run in `s` stays: FSTREAM in the decode direction, PIX in the encode direction. -/
def InputKept (s t : State) : Prop :=
  (s.cfg.direction = .decode → t.fstream = s.fstream) ∧ (s.cfg.direction = .encode → t.pix = s.pix)

theorem inputKept_refl (s : State) : InputKept s s := ⟨fun _ => rfl, fun _ => rfl⟩

/-- Only the output space becomes unspecified (60_exceptions R252). -/
theorem inputKept_scrambleOutput (s : State) : InputKept s s.scrambleOutput :=
  ⟨s.scrambleOutput_fstream_decode, s.scrambleOutput_pix_encode⟩

theorem engineStep_keeps_input {s t : State} (hs : s.status = .running) (h : engineStep s = .next t) : InputKept s t := by
  rcases engineStep_row_cases hs h with ⟨ft, cur, k, v, rfl⟩ | ⟨hdir, hrow⟩ | ⟨hdir, hrow⟩
  · exact inputKept_scrambleOutput { s with ft := ft, cur := cur }
  · exact ⟨fun _ => hrow.fstream, fun he => by simp [hdir] at he⟩
  · exact ⟨fun hd => by simp [hdir] at hd, fun _ => hrow.pix⟩

/-- While Running the host writes neither space, START is ignored, and RESET leaves the aborted run's input space. -/
theorem HostEffect.keeps_input {s t : State} (hs : s.status = .running) (h : HostEffect s t) : InputKept s t := by
  cases h with
  | nothing => exact inputKept_refl s
  | read d n _ => exact inputKept_refl s
  | config c hn => exact absurd hs hn
  | pal k c hn => exact absurd hs hn
  | apal k a hn => exact absurd hs hn
  | fstream a b hn => exact absurd hs hn
  | pix a b hn => exact absurd hs hn
  | start _ h =>
    rcases execStart_cases h with ⟨-, rfl⟩ | ⟨hn, -⟩ | ⟨hn, -⟩
    · exact inputKept_refl t
    · exact absurd hs hn
    · exact absurd hs hn
  | reset =>
    obtain ⟨hf, hx⟩ := inputKept_scrambleOutput s
    exact ⟨by rwa [resetState_fstream, if_pos hs], by rwa [resetState_pix, if_pos hs]⟩

/-- Settles O40: the host's coming moves are no part of the input space, and neither the engine's turn nor an effect of the host
writes it while Running. -/
theorem inputSpaceReadOnly : Obligations.InputSpaceReadOnly := by
  intro s t hs h
  obtain ⟨p, he | he⟩ := step_cases h
  · exact engineStep_keeps_input (s := { s with pending := p }) hs he
  · exact HostEffect.keeps_input (s := { s with pending := p }) hs he

end Sys2Proof.Machine
end

section
/-! PROOFS. Runs with no move of the host to come, as runs of rows, and the bytes of PIX that a decode run writes (20_memory R70). -/

namespace Sys2Proof.Machine

/-! ### A run is a run of rows -/

/-- A turn of the engine leaves the host's coming moves. -/
theorem engineStep_pending {s t : State} (h : engineStep s = .next t) : t.pending = s.pending := by
  by_cases hs : s.status = .running
  · rcases engineStep_row_cases hs h with ⟨ft, cur, k, v, rfl⟩ | ⟨-, hrow⟩ | ⟨-, hrow⟩
    · exact State.raise_pending ..
    · exact hrow.pending
    · exact hrow.pending
  · cases (engineStep_not_running hs).symm.trans h
    rfl

/-- A run of `n + 1` steps is a step and a run of `n`. -/
theorem run_succ_of_step {M : Host.Core} {s t : M.State} (h : M.step s = .next t) (n : Nat) : M.run (n + 1) s = M.run n t := by
  rw [Host.Core.run, h]

/-- With no move of the host to come, a run of `step` is a run of rows (44_control R226). -/
theorem run_eq_runRows {s : State} (hp : s.pending = []) (n : Nat) : Host.Core.run core n s = runRows n s := by
  induction n generalizing s with
  | zero => rfl
  | succ n ih =>
    obtain ⟨u, hu⟩ := engineStep_total s
    have hstep : core.step s = .next u := (step_of_pending_nil hp).trans hu
    have hrun : Host.Core.run core (n + 1) s = runRows n u :=
      (run_succ_of_step hstep n).trans (ih ((engineStep_pending hu).trans hp))
    rw [hrun, runRows]
    split
    · rw [hu]; rfl
    · next hs =>
      cases (engineStep_not_running hs).symm.trans hu
      exact runRows_not_running n hs

/-! ### The bytes of the image (20_memory R62, R70) -/

/-- From `m` to `m'` every index from `lo` up to `hi`, and no other, has been written. -/
def WrittenBetween (m m' : Memory) (lo hi : Nat) : Prop :=
  (∀ a, lo ≤ a → a < hi → m'.get? a ≠ none) ∧ ∀ a, a < lo ∨ hi ≤ a → m'.get? a = m.get? a

theorem writtenBetween_writeList (m : Memory) (k : Nat) (bs : List Byte) :
    WrittenBetween m (m.writeList k bs) k (k + bs.length) := by
  refine ⟨fun a hlo hhi => ?_, fun a ha => Store.get?_writeList_outside m k bs ha⟩
  obtain ⟨i, rfl⟩ := Nat.exists_eq_add_of_le hlo
  have hi : i < bs.length := by omega
  simp [Store.get?_writeList_inside m k bs hi, hi]

/-- Adjacent ranges written one after the other. -/
theorem WrittenBetween.trans {m m' m'' : Memory} {lo mid hi : Nat} (h : WrittenBetween m m' lo mid)
    (h' : WrittenBetween m' m'' mid hi) (hlo : lo ≤ mid) (hhi : mid ≤ hi) : WrittenBetween m m'' lo hi := by
  refine ⟨fun a ha ha' => ?_, fun a ha => ?_⟩
  · by_cases hm : a < mid
    · rw [h'.2 a (.inl hm)]; exact h.1 a ha hm
    · exact h'.1 a (by omega) ha'
  · rw [h'.2 a (by omega), h.2 a (by omega)]

/-- The rows of PIX follow one another without a gap. -/
theorem pixelBase_succ_row (c : Cfg) (y : Nat) : pixelBase c 0 (y + 1) = pixelBase c 0 y + c.width.toNat * 4 := by
  simp only [pixelBase]; ring

theorem pixelBase_row_mono (c : Cfg) {y y' : Nat} (h : y ≤ y') : pixelBase c 0 y ≤ pixelBase c 0 y' := by
  simp only [pixelBase, Nat.add_zero]; gcongr

/-- An executed row has written the bytes of row Y. -/
theorem RowUnpacked.written {s t : State} (h : RowUnpacked s t) :
    WrittenBetween s.pix t.pix (pixelBase s.cfg 0 s.y.toNat) (pixelBase s.cfg 0 (s.y.toNat + 1)) := by
  obtain ⟨row, hlen, hpix⟩ := h.pix
  rw [hpix, pixelBase_succ_row, ← hlen]
  exact writtenBetween_writeList ..

/-- Y counts the completed rows: below HEIGHT it does not wrap. -/
theorem RowCompleted.y_toNat {s t : State} (h : RowCompleted s t) (hy : s.y.toNat < s.cfg.height.toNat) :
    t.y.toNat = s.y.toNat + 1 := by
  rw [h.y]; bv_omega

/-- Rows of a decode run that end Done have written PIX from row Y to the end of the image. -/
theorem runRows_decode_written {n : Nat} {s t : State} (hs : s.status = .running) (hdir : s.cfg.direction = .decode)
    (hy : s.y.toNat < s.cfg.height.toNat) (h : runRows n s = .next t) (ht : t.status = .done) :
    WrittenBetween s.pix t.pix (pixelBase s.cfg 0 s.y.toNat) (pixelBase s.cfg 0 s.cfg.height.toNat) := by
  induction n generalizing s with
  | zero => cases h; simp [hs] at ht
  | succ n ih =>
    obtain ⟨u, hu⟩ := engineStep_total s
    rw [runRows, if_pos hs, hu, andThen_next] at h
    rcases engineStep_row_cases hs hu with ⟨ft, cur, k, v, rfl⟩ | ⟨-, hrow⟩ | ⟨he, -⟩
    · rw [runRows_not_running n (by simp)] at h
      cases h; simp at ht
    · have hyu := hrow.y_toNat hy
      by_cases hlast : u.y = s.cfg.height
      · have hdone : u.status = .done := hrow.status.trans (if_pos hlast)
        rw [runRows_not_running n (by simp [hdone])] at h
        cases h
        rw [← hlast, hyu]
        exact hrow.written
      · have hrun : u.status = .running := hrow.status.trans (if_neg hlast)
        have hcfg : u.cfg = s.cfg := hrow.cfg hrun
        have hylt : u.y.toNat < s.cfg.height.toNat := by
          have hne : u.y.toNat ≠ s.cfg.height.toNat := fun he => hlast (BitVec.eq_of_toNat_eq he)
          omega
        have hrest := ih hrun (hcfg ▸ hdir) (hcfg ▸ hylt) h
        rw [hcfg, hyu] at hrest
        exact hrow.written.trans hrest (pixelBase_row_mono _ (by omega)) (pixelBase_row_mono _ hy)
    · simp [hdir] at he

/-- Settles O56: the run is a run of rows, which has written PIX from row 0 to the end of the image. -/
theorem decodeWritesEveryPixel : Obligations.DecodeWritesEveryPixel := by
  intro s t hr hs hdir hy0 hp h ht
  obtain ⟨-, -, hy, -⟩ := hr hs
  obtain ⟨hin, hout⟩ := runRows_decode_written hs hdir hy ((run_eq_runRows hp _).symm.trans h) ht
  have hfirst : pixelBase s.cfg 0 s.y.toNat = 0 := by simp [pixelBase, hy0]
  have hend : pixelBase s.cfg 0 s.cfg.height.toNat = s.cfg.width.toNat * s.cfg.height.toNat * 4 := by
    simp only [pixelBase]; ring
  rw [hfirst, hend] at hin hout
  exact ⟨fun a => hin a (Nat.zero_le a), fun a ha => hout a (.inr ha)⟩

end Sys2Proof.Machine
end

section
/-! PROOFS. The words of 30_encoding: the decoder reads exactly the encoder's words (R92, R99, R101, R105), the reserved words are
refused by name (R96, R100, R101, R106), and a command code runs its command. -/

namespace Sys2Proof

/-! ### From an operation to its word and back -/

/-- A well-formed operation is read back from its word. PACK.IDX8 alone has an operand, and the decoder's check of it is the
operation's well-formedness (R101). -/
theorem decode_encode_append {i : Instr} (hwf : i.wellFormed = true) (rest : List Byte) :
    decode i.context (encode i ++ rest) = .ok (i, rest) := by
  cases i with
  | packIdx8 bd =>
    have hd : decodePack bd 3 = .ok (.packIdx8 bd) := if_pos hwf
    exact congrArg (Except.map (·, rest)) hd
  | _ => rfl

/-! ### From a word to its operation and back -/

/-- In context `c` the word `w` is the encoding of the well-formed operation `i`. -/
def IsWordOf (c : Context) (w : List Byte) (i : Instr) : Prop :=
  i.wellFormed = true ∧ i.context = c ∧ encode i = w

/-- A byte is the byte of its number. The opcode maps match the number, the encoder writes the byte. -/
theorem byte_eq_ofNat {b : Byte} {n : Nat} (h : b.toNat = n) : b = BitVec.ofNat 8 n := by
  rw [← h, BitVec.ofNat_toNat, BitVec.setWidth_eq]

/-- FTYPE in the decode direction (R92). -/
theorem isWordOf_of_decodeUnfilt {ft : Byte} {i : Instr} (h : decodeUnfilt ft = .ok i) :
    IsWordOf (.scanline .decode) [ft] i := by
  unfold decodeUnfilt at h
  split at h <;> cases h
  all_goals
    next hft =>
      cases byte_eq_ofNat hft
      exact ⟨rfl, rfl, rfl⟩

/-- FTYPE in the encode direction (R92). -/
theorem isWordOf_of_decodeFilt {ft : Byte} {i : Instr} (h : decodeFilt ft = .ok i) :
    IsWordOf (.scanline .encode) [ft] i := by
  unfold decodeFilt at h
  split at h <;> cases h
  all_goals
    next hft =>
      cases byte_eq_ofNat hft
      exact ⟨rfl, rfl, rfl⟩

/-- The mode words with DIR = 0 (R99). -/
theorem isWordOf_of_decodeUnpack {bd ct : Byte} {i : Instr} (h : decodeUnpack bd ct = .ok i) :
    IsWordOf (.mode .decode) [bd, ct] i := by
  unfold decodeUnpack at h
  split at h <;> cases h
  all_goals
    next hct hbd =>
      cases byte_eq_ofNat hct
      cases byte_eq_ofNat hbd
      exact ⟨rfl, rfl, rfl⟩

/-- The mode words with DIR = 1; the depth of PACK.IDX8 was checked (R101). -/
theorem isWordOf_of_decodePack {bd ct : Byte} {i : Instr} (h : decodePack bd ct = .ok i) :
    IsWordOf (.mode .encode) [bd, ct] i := by
  unfold decodePack at h
  split at h
  · next hct =>
    cases byte_eq_ofNat hct
    split at h <;> cases h
    next hbd => cases hbd; exact ⟨rfl, rfl, rfl⟩
  · next hct =>
    cases byte_eq_ofNat hct
    split at h <;> cases h
    next hbd => cases hbd; exact ⟨rfl, rfl, rfl⟩
  · next hct =>
    cases byte_eq_ofNat hct
    split at h <;> cases h
    next hbd => exact ⟨hbd, rfl, rfl⟩
  · cases h

/-- The command codes (R105). -/
theorem isWordOf_of_decodeCommand {code : Byte} {i : Instr} (h : decodeCommand code = .ok i) :
    IsWordOf .command [code] i := by
  unfold decodeCommand at h
  split at h <;> cases h
  all_goals
    next hcode =>
      cases byte_eq_ofNat hcode
      exact ⟨rfl, rfl, rfl⟩

/-- The decoder pairs an opcode map's answer with the bytes left over. -/
theorem map_pair_eq_ok_iff {x : Except DecodeError Instr} {rest rest' : List Byte} {i : Instr} :
    x.map (·, rest) = .ok (i, rest') ↔ x = .ok i ∧ rest = rest' := by
  cases x <;> simp [Except.map]

/-- What the decoder accepts in a context is a word of that context and the bytes after it. -/
theorem exists_isWordOf_of_decode {c : Context} {bytes rest : List Byte} {i : Instr} (h : decode c bytes = .ok (i, rest)) :
    ∃ w, IsWordOf c w i ∧ bytes = w ++ rest := by
  unfold decode at h
  split at h
  · obtain ⟨hd, rfl⟩ := map_pair_eq_ok_iff.mp h
    exact ⟨_, isWordOf_of_decodeUnfilt hd, rfl⟩
  · obtain ⟨hd, rfl⟩ := map_pair_eq_ok_iff.mp h
    exact ⟨_, isWordOf_of_decodeFilt hd, rfl⟩
  · obtain ⟨hd, rfl⟩ := map_pair_eq_ok_iff.mp h
    exact ⟨_, isWordOf_of_decodeUnpack hd, rfl⟩
  · obtain ⟨hd, rfl⟩ := map_pair_eq_ok_iff.mp h
    exact ⟨_, isWordOf_of_decodePack hd, rfl⟩
  · obtain ⟨hd, rfl⟩ := map_pair_eq_ok_iff.mp h
    exact ⟨_, isWordOf_of_decodeCommand hd, rfl⟩
  · cases h

/-- Settles O1: one direction goes over the operations, the other over the arms of the opcode maps. -/
theorem decodeEncodeAgree : Obligations.DecodeEncodeAgree := by
  refine ⟨fun i rest hwf => decode_encode_append hwf rest, fun c bytes rest i h => ?_⟩
  obtain ⟨w, ⟨hwf, hctx, hw⟩, hbytes⟩ := exists_isWordOf_of_decode h
  exact ⟨hwf, hctx, hw ▸ hbytes⟩

/-- Settles O2: each is the encoder's word of its operation, with no byte after it. -/
theorem specWordsDecode : Obligations.SpecWordsDecode :=
  ⟨decode_encode_append (i := .unfiltPaeth) rfl [], decode_encode_append (i := .filtAvg) rfl [],
    decode_encode_append (i := .unpackRgb16) rfl [], decode_encode_append (i := .unpackP2) rfl [],
    decode_encode_append (i := .packRgba8) rfl [], decode_encode_append (i := .packIdx8 4) rfl [],
    decode_encode_append (i := .reset) rfl []⟩

/-! ### Reserved words -/

/-- An FTYPE above 4 is reserved in the decode direction (R96). -/
theorem decodeUnfilt_reserved {ft : Byte} (h : 4 < ft.toNat) : decodeUnfilt ft = .error (.badFilter ft) := by
  unfold decodeUnfilt
  split
  case h_6 => rfl
  all_goals omega

/-- An FTYPE above 4 is reserved in the encode direction (R96). -/
theorem decodeFilt_reserved {ft : Byte} (h : 4 < ft.toNat) : decodeFilt ft = .error (.badFilter ft) := by
  unfold decodeFilt
  split
  case h_6 => rfl
  all_goals omega

/-- A command code above 2 is reserved (R106). -/
theorem decodeCommand_reserved {code : Byte} (h : 2 < code.toNat) : decodeCommand code = .error (.reservedCommand code) := by
  unfold decodeCommand
  split
  case h_4 => rfl
  all_goals omega

/-- A colour type the format does not have is refused whatever the depth: every arm before the last is of a legal one (R100). -/
theorem decodeUnpack_unknownColorType (bd : Byte) {ct : Byte} (h : ct.toNat ∉ [0, 2, 3, 4, 6]) :
    decodeUnpack bd ct = .error (.unknownColorType ct) := by
  unfold decodeUnpack
  split
  case h_21 => rfl
  all_goals exact absurd (by simp [*]) h

/-- A depth outside the set of a legal colour type is refused: the 15 arms before are the pairs of the table (R100). -/
theorem decodeUnpack_badBitDepth {bd ct : Byte} (hct : ct.toNat ∈ [0, 2, 3, 4, 6])
    (h : (ct.toNat, bd.toNat) ∉ [(0, 1), (0, 2), (0, 4), (0, 8), (0, 16), (2, 8), (2, 16), (3, 1), (3, 2), (3, 4), (3, 8),
      (4, 8), (4, 16), (6, 8), (6, 16)]) :
    decodeUnpack bd ct = .error (.badBitDepth bd ct) := by
  unfold decodeUnpack
  split
  case h_16 | h_17 | h_18 | h_19 | h_20 => rfl
  case h_21 => simp_all
  all_goals exact absurd (by simp [*]) h

/-- A pair without a packer is refused: of the three colour types with one, each has the depths of the table alone (R101). -/
theorem decodePack_unsupportedMode {bd ct : Byte}
    (h : (ct.toNat, bd.toNat) ∉ [(6, 8), (2, 8), (3, 0), (3, 1), (3, 2), (3, 4), (3, 8)]) :
    decodePack bd ct = .error (.unsupportedMode bd ct) := by
  unfold decodePack
  split
  · next hct => exact if_neg fun hbd => absurd (by simp [hct, hbd]) h
  · next hct => exact if_neg fun hbd => absurd (by simp [hct, hbd]) h
  · next hct =>
    refine if_neg fun hbd => ?_
    have hmem : bd ∈ [0, 1, 2, 4, 8] := List.contains_iff_mem.mp hbd
    have hnat : bd.toNat ∈ [0, 1, 2, 4, 8] := List.mem_map_of_mem (f := BitVec.toNat) hmem
    exact absurd (by simpa [hct] using hnat) h
  · rfl

/-- Settles O3: each clause is what its opcode map answers, with the bytes after the word left over. -/
theorem reservedWordsRefused : Obligations.ReservedWordsRefused := by
  refine ⟨fun d ft rest h => ?_, fun code rest h => ?_, fun bd ct rest h => ?_, fun bd ct rest hct h => ?_,
    fun bd ct rest h => ?_⟩
  · cases d with
    | decode => exact congrArg (Except.map (·, rest)) (decodeUnfilt_reserved h)
    | encode => exact congrArg (Except.map (·, rest)) (decodeFilt_reserved h)
  · exact congrArg (Except.map (·, rest)) (decodeCommand_reserved h)
  · exact congrArg (Except.map (·, rest)) (decodeUnpack_unknownColorType bd h)
  · exact congrArg (Except.map (·, rest)) (decodeUnpack_badBitDepth hct h)
  · exact congrArg (Except.map (·, rest)) (decodePack_unsupportedMode h)

end Sys2Proof

namespace Sys2Proof.Machine

/-! ### Commands (R105) -/

/-- A command code that decodes runs its command. -/
theorem hostCommand_of_decode {code : Byte} {i : Instr} (h : decode .command [code] = .ok (i, [])) (s : State) :
    hostCommand s code = exec i s := by
  rw [hostCommand, h]

/-- A move that writes the command code runs its command in the step that makes the move. -/
theorem step_of_command {s : State} {m : HostMove} {rest : List HostMove} {code : Byte} {i : Instr}
    (h : decode .command [code] = .ok (i, [])) (hm : m.command? = some code) (hp : s.pending = m :: rest) :
    step s = exec i { s with pending := rest } := by
  have hw : m ≠ .await := by rintro rfl; cases hm
  rw [step_of_pending_cons hp hw, hostMove_of_command hm, hostCommand_of_decode h]

/-- Settles O6: both moves write the code, as register 48 since it fits CMD's 8 bits. -/
theorem stepRunsCommand : Obligations.StepRunsCommand := by
  intro s rest code i h
  have hreg : (HostMove.regWrite 48 code.toNat).command? = some code := by simp [HostMove.command?]
  exact ⟨step_of_command h rfl, step_of_command h hreg⟩

end Sys2Proof.Machine
end

section
/-! PROOFS. The filter unit of 40_unfilter R121: what the checks of START leave of the mode word (44_control R224), and FU over the
pairs that are left. -/

namespace Sys2Proof.Machine

/-! ### The mode word after the checks of START -/

/-- In the decode direction an accepted configuration has a mode word with an UNPACK operation (checks 4 and 5). -/
theorem decodeUnpack_ok_of_startCheck {c : Cfg} (hdir : c.direction = .decode) (h : startCheck c = none) :
    ∃ i, decodeUnpack c.bitDepth c.colorType = .ok i := by
  cases hd : decodeUnpack c.bitDepth c.colorType with
  | ok i => exact ⟨i, rfl⟩
  | error e => simp [startCheck, hdir, checkDecode, hd, Except.map, ite_eq_iff] at h

/-- In the encode direction it has one with a PACK operation (check 9). -/
theorem decodePack_ok_of_startCheck {c : Cfg} (hdir : c.direction = .encode) (h : startCheck c = none) :
    ∃ i, decodePack c.bitDepth c.colorType = .ok i := by
  cases hd : decodePack c.bitDepth c.colorType with
  | ok i => exact ⟨i, rfl⟩
  | error e => simp [startCheck, hdir, checkEncode, hd, Except.map, ite_eq_iff] at h

/-! ### FU -/

/-- FU in the 15 modes of the decode direction (00_scope R11). -/
theorem Cfg.fu_bounds_of_decodeUnpack {c : Cfg} {i : Instr} (hdir : c.direction = .decode)
    (h : decodeUnpack c.bitDepth c.colorType = .ok i) : 1 ≤ c.fu ∧ c.fu ≤ 8 := by
  unfold decodeUnpack at h
  split at h <;> cases h
  all_goals
    next hct hbd =>
      rw [Cfg.fu_of_spp_depth (Cfg.spp_of_colorType hct) ((Cfg.depth_decode hdir).trans hbd)]
      decide

/-- FU in the encode direction is SPP, the depth being 8 (43_pack R190). -/
theorem Cfg.fu_encode {c : Cfg} (hdir : c.direction = .encode) : c.fu = c.spp := by
  have hdepth : c.depth = 8 := by simp [Cfg.depth, hdir]
  simp [Cfg.fu, hdepth]

/-- FU in the modes of the encode direction (43_pack R190). -/
theorem Cfg.fu_bounds_of_decodePack {c : Cfg} {i : Instr} (hdir : c.direction = .encode)
    (h : decodePack c.bitDepth c.colorType = .ok i) : 1 ≤ c.fu ∧ c.fu ≤ 8 := by
  rw [Cfg.fu_encode hdir]
  unfold decodePack at h
  split at h
  case h_4 => cases h
  all_goals
    next hct =>
      rw [Cfg.spp_of_colorType hct]
      decide

/-- Settles O10: START leaves only the pairs of the two geometry tables. -/
theorem filterUnitBounds : Obligations.FilterUnitBounds := by
  intro c h
  cases hdir : c.direction with
  | decode =>
    obtain ⟨i, hi⟩ := decodeUnpack_ok_of_startCheck hdir h
    exact Cfg.fu_bounds_of_decodeUnpack hdir hi
  | encode =>
    obtain ⟨i, hi⟩ := decodePack_ok_of_startCheck hdir h
    exact Cfg.fu_bounds_of_decodePack hdir hi

end Sys2Proof.Machine
end

section
/-! PROOFS. The filter inversion of 40_unfilter: the choice of the Paeth predictor (R124, R125), the recovered row (R120 to R130), and
that UNFILT inverts FILT of the same type (R133). -/

namespace Sys2Proof.Machine

/-! ### The Paeth predictor (R124, R125) -/

/-- The distance of `v` from `a + b - c` over the integers. -/
def paethDist (a b c v : Byte) : Int := |(a.toNat : Int) + b.toNat - c.toNat - v.toNat|

/-- The three answers of the predictor, with the comparisons that lead to each. -/
theorem paeth_cases (a b c : Byte) :
    (paeth a b c = a ∧ paethDist a b c a ≤ paethDist a b c b ∧ paethDist a b c a ≤ paethDist a b c c) ∨
    (paeth a b c = b ∧ paethDist a b c b < paethDist a b c a ∧ paethDist a b c b ≤ paethDist a b c c) ∨
    (paeth a b c = c ∧ paethDist a b c c < paethDist a b c a ∧ paethDist a b c c < paethDist a b c b) := by
  simp only [paethDist, Int.abs_eq_natAbs, Nat.cast_le, Nat.cast_lt, paeth]
  split
  · next ha => exact .inl ⟨rfl, ha⟩
  · split
    · exact .inr (.inl ⟨rfl, by omega, by assumption⟩)
    · exact .inr (.inr ⟨rfl, by omega, by omega⟩)

/-- With up and up_left equal the predictor is left, at distance 0 (R125). -/
theorem paeth_up_eq_upLeft (a b : Byte) : paeth a b b = a := by
  simp [paeth]

/-- With left and up_left equal it is up, at distance 0 (R125). -/
theorem paeth_left_eq_upLeft (a b : Byte) : paeth a b a = b := by
  have hup : paethDist a b a b = 0 := by simp [paethDist]
  rcases paeth_cases a b a with ⟨hr, hle, -⟩ | ⟨hr, -⟩ | ⟨-, -, hlt⟩
  · have hab : b.toNat = a.toNat := by
      simpa [paethDist, sub_eq_zero] using hle
    rw [hr, BitVec.eq_of_toNat_eq hab]
  · exact hr
  · exact absurd (abs_nonneg _) (hup ▸ hlt).not_ge

/-- Settles O11: each answer comes with the comparisons that make it the nearest and, on a tie, the earliest. -/
theorem paethNearestEarliest : Obligations.PaethNearestEarliest := by
  refine ⟨fun a b c => ?_, fun a => paeth_up_eq_upLeft a 0, fun b => paeth_left_eq_upLeft 0 b, fun a => paeth_up_eq_upLeft a a⟩
  intro p dist r
  rcases paeth_cases a b c with ⟨hr, hb, hc⟩ | ⟨hr, ha, hc⟩ | ⟨hr, ha, hb⟩ <;> rw [show r = _ from hr]
  · exact ⟨.inl rfl, le_rfl, hb, hc, fun _ => rfl, fun h => absurd rfl h⟩
  · exact ⟨.inr (.inl rfl), ha.le, le_rfl, hc, fun h => absurd h ha.ne', fun _ _ => rfl⟩
  · exact ⟨.inr (.inr rfl), ha.le, hb.le, le_rfl, fun h => absurd h ha.ne', fun _ h => absurd h hb.ne'⟩

/-! ### The recovered row (R120 to R130) -/

/-- A well-formed operation has its encoding as its word. -/
theorem hasWord_encode {i : Instr} (hwf : i.wellFormed = true) : HasWord i.context (encode i) i :=
  ⟨rfl, rfl, by simpa using decode_encode_append hwf []⟩

/-- Byte `i` of CUR after a UNFILT, over the neighbours in the finished row and in PREV (R120, R121). -/
theorem unfilter_byte (pred : Predictor) {s : State} (hfu : 0 < s.cfg.fu) {i : Nat} (hi : i < s.cfg.rowb) :
    (unfilter pred s).cur.byte i = s.readFstream (s.ip + 1 + i) +
      pred (before (unfilter pred s).cur.byte s.cfg.fu i) (s.prev.byte i) (before s.prev.byte s.cfg.fu i) := by
  have hbyte {j : Nat} (hj : j < s.cfg.rowb) : (unfilter pred s).cur.byte j = (unfilteredRow pred s).getD j 0 :=
    RowBuf.byte_of_lt _ (hj.trans_eq (recoverRow_length ..).symm)
  have hleft : before (unfilter pred s).cur.byte s.cfg.fu i =
      before (fun j => (unfilteredRow pred s).getD j 0) s.cfg.fu i := by
    unfold before
    split
    · exact hbyte (by omega)
    · rfl
  rw [hleft, hbyte hi]
  exact recoverRow_getD pred hfu _ _ hi

/-- A UNFILT recovers the row by its predictor. -/
theorem rowRecovered_unfilter (pred : Predictor) {s : State} (hfu : 0 < s.cfg.fu) :
    RowRecovered s (unfilter pred s) fun row i => s.readFstream (s.ip + 1 + i) +
      pred (before row s.cfg.fu i) (s.prev.byte i) (before s.prev.byte s.cfg.fu i) :=
  ⟨unfilter_frame pred s, recoverRow_length .., fun _ hi => unfilter_byte pred hfu hi⟩

/-- Settles O12: one recurrence for the five predictors. None adds 0 to the byte of FSTREAM. -/
theorem unfilterRecovers : Obligations.UnfilterRecovers := by
  intro s hfu f left up upLeft
  have hnone : RowRecovered s (unfilter predNone s) fun _ i => f i := by
    simpa [predNone] using rowRecovered_unfilter predNone hfu
  exact ⟨⟨hasWord_encode rfl, hasWord_encode rfl, hasWord_encode rfl, hasWord_encode rfl, hasWord_encode rfl⟩,
    ⟨_, rfl, hnone⟩, ⟨_, rfl, rowRecovered_unfilter predSub hfu⟩, ⟨_, rfl, rowRecovered_unfilter predUp hfu⟩,
    ⟨_, rfl, rowRecovered_unfilter predAvg hfu⟩, ⟨_, rfl, rowRecovered_unfilter paeth hfu⟩⟩

/-! ### The inversion (R133) -/

/-- A recovered row reads its filtered bytes below its length only. -/
theorem recoverRow_congr (pred : Predictor) (fu : Nat) {f g : Nat → Byte} (up : Nat → Byte) {n : Nat}
    (h : ∀ i, i < n → f i = g i) : recoverRow pred fu f up n = recoverRow pred fu g up n := by
  induction n with
  | zero => rfl
  | succ n ih => simp only [recoverRow, ih fun i hi => h i (by omega), h n (Nat.lt_succ_self n)]

/-- Recovering a filtered row gives the raw row: byte `n` has the same neighbours in the recovered row as in the raw one, so the
predictor that was subtracted is added again. -/
theorem recoverRow_filteredByte (pred : Predictor) {fu : Nat} (hfu : 0 < fu) (raw up : Nat → Byte) (n : Nat) :
    recoverRow pred fu (filteredByte pred fu raw up) up n = (List.range n).map raw := by
  induction n with
  | zero => rfl
  | succ n ih =>
    have hleft : before (fun j => ((List.range n).map raw).getD j 0) fu n = before raw fu n := by
      unfold before
      split
      · have hlt : n - fu < n := by omega
        simp [List.getD, hlt]
      · rfl
    simp only [recoverRow, ih, hleft, filteredByte, BitVec.sub_add_cancel, List.range_succ, List.map_append, List.map_cons,
      List.map_nil]

/-- The bytes of a row buffer, read one by one. -/
theorem RowBuf.map_byte_range (b : RowBuf) : (List.range b.bytes.length).map b.byte = b.bytes := by
  refine List.ext_getElem (by simp) fun i hi hi' => ?_
  rw [List.getElem_map, List.getElem_range, b.byte_of_lt hi', List.getD_eq_getElem _ _ hi']

/-- UNFILT under the predictor of a FILT recovers RAW, whatever CUR held. -/
theorem unfilter_filterRow (ft : Byte) (pred : Predictor) {s : State} (scratch : RowBuf) (hfu : 0 < s.cfg.fu)
    (hlen : s.cur.bytes.length = s.cfg.rowb) :
    (unfilter pred { filterRow ft pred s with cur := scratch }).cur.bytes = s.cur.bytes := by
  calc (unfilter pred { filterRow ft pred s with cur := scratch }).cur.bytes
      = recoverRow pred s.cfg.fu (fun i => (filterRow ft pred s).readFstream (s.ip + 1 + i)) s.prev.byte s.cfg.rowb := rfl
    _ = recoverRow pred s.cfg.fu (filteredByte pred s.cfg.fu s.cur.byte s.prev.byte) s.prev.byte s.cfg.rowb :=
        recoverRow_congr pred s.cfg.fu _ fun _ hi => filterRow_readFstream_data ft pred s hi
    _ = (List.range s.cfg.rowb).map s.cur.byte := recoverRow_filteredByte pred hfu _ _ _
    _ = s.cur.bytes := hlen ▸ s.cur.map_byte_range

/-- Settles O19: the five pairs share their predictor. -/
theorem unfilterInvertsFilter : Obligations.UnfilterInvertsFilter := by
  intro e he s scratch hfu hlen
  simp only [List.mem_cons, List.not_mem_nil, or_false] at he
  rcases he with rfl | rfl | rfl | rfl | rfl
  · exact ⟨_, _, rfl, rfl, unfilter_filterRow 0 predNone scratch hfu hlen⟩
  · exact ⟨_, _, rfl, rfl, unfilter_filterRow 1 predSub scratch hfu hlen⟩
  · exact ⟨_, _, rfl, rfl, unfilter_filterRow 2 predUp scratch hfu hlen⟩
  · exact ⟨_, _, rfl, rfl, unfilter_filterRow 3 predAvg scratch hfu hlen⟩
  · exact ⟨_, _, rfl, rfl, unfilter_filterRow 4 paeth scratch hfu hlen⟩

end Sys2Proof.Machine
end

section
/-! PROOFS. A decode step never reads PIX (40_unfilter R134, 10_state R55): each part of DECODE_STEP is described for every PIX at
once, so that two runs of it differ in PIX alone. -/

namespace Sys2Proof.Machine

/-! ### FETCH, by its answers (44_control R227) -/

theorem fetch_of_ended {s : State} (h : s.cfg.fstreamLen ≤ s.ip) : fetch s = .error (s.raise .truncated s.y 0) := if_pos h

theorem fetch_of_badFilter {s : State} {e : DecodeError} (h : s.ip < s.cfg.fstreamLen)
    (hd : decodeUnfilt (s.readFstream s.ip) = .error e) :
    fetch s = .error (State.raise { s with ft := s.readFstream s.ip } .badFilter s.y ((s.readFstream s.ip).setWidth 32)) := by
  simp only [fetch, if_neg h.not_ge, decode_scanline_decode, hd, Except.map]

theorem fetch_of_cut {s : State} {i : Instr} (h : s.ip < s.cfg.fstreamLen)
    (hd : decodeUnfilt (s.readFstream s.ip) = .ok i) (hcut : s.cfg.fstreamLen < s.ip + s.cfg.slen) :
    fetch s = .error (State.raise { s with ft := s.readFstream s.ip } .truncated s.y 1) := by
  simp only [fetch, if_neg h.not_ge, decode_scanline_decode, hd, Except.map, if_pos hcut]

theorem fetch_of_whole {s : State} {i : Instr} (h : s.ip < s.cfg.fstreamLen)
    (hd : decodeUnfilt (s.readFstream s.ip) = .ok i) (hwhole : s.ip + s.cfg.slen ≤ s.cfg.fstreamLen) :
    fetch s = .ok (i, { s with ft := s.readFstream s.ip }) := by
  simp only [fetch, if_neg h.not_ge, decode_scanline_decode, hd, Except.map, if_neg hwhole.not_gt]

/-! ### The parts of DECODE_STEP under every PIX -/

/-- What FETCH does under every PIX: it faults, which leaves nothing of PIX, or it writes FT. -/
theorem fetch_withPix_cases {s : State} (hdir : s.cfg.direction = .decode) :
    (∃ u : State, u.status = .faulted ∧ ∀ m, fetch { s with pix := m } = .error u) ∨
    (∃ i ft, decodeUnfilt ft = .ok i ∧ ∀ m, fetch { s with pix := m } = .ok (i, { s with ft := ft, pix := m })) := by
  have raise_typed (k : ErrKind) (v : BitVec 32) (m : Memory) :=
    raise_withPix (s := { s with ft := s.readFstream s.ip }) hdir m k s.y v
  rcases Nat.lt_or_ge s.ip s.cfg.fstreamLen with hlt | hended
  · cases hd : decodeUnfilt (s.readFstream s.ip) with
    | error e =>
      exact .inl ⟨_, rfl, fun m => (fetch_of_badFilter (s := { s with pix := m }) hlt hd).trans
        (congrArg Except.error (raise_typed .badFilter ((s.readFstream s.ip).setWidth 32) m))⟩
    | ok i =>
      rcases Nat.lt_or_ge s.cfg.fstreamLen (s.ip + s.cfg.slen) with hcut | hwhole
      · exact .inl ⟨_, rfl, fun m => (fetch_of_cut (s := { s with pix := m }) hlt hd hcut).trans
          (congrArg Except.error (raise_typed .truncated 1 m))⟩
      · exact .inr ⟨i, _, hd, fun m => fetch_of_whole (s := { s with pix := m }) hlt hd hwhole⟩
  · exact .inl ⟨_, rfl, fun m => (fetch_of_ended (s := { s with pix := m }) hended).trans
      (congrArg Except.error (raise_withPix hdir m .truncated s.y 0))⟩

/-- What an UNFILT operation does in every state. -/
theorem exec_of_decodeUnfilt_forall {ft : Byte} {i : Instr} (h : decodeUnfilt ft = .ok i) :
    ∃ pred, ∀ s, exec i s = .next (unfilter pred s) := by
  unfold decodeUnfilt at h
  split at h <;> cases h
  · exact ⟨predNone, fun _ => rfl⟩
  · exact ⟨predSub, fun _ => rfl⟩
  · exact ⟨predUp, fun _ => rfl⟩
  · exact ⟨predAvg, fun _ => rfl⟩
  · exact ⟨paeth, fun _ => rfl⟩

/-- What a function of the state gives does not depend on PIX. -/
def IgnoresPix {α : Type} (f : State → α) : Prop := ∀ s m, f { s with pix := m } = f s

/-- What an UNPACK operation does in every state: it writes the row of some pixels or of some palette indices, which do not depend on
PIX. -/
theorem exec_of_decodeUnpack_forall {bd ct : Byte} {i : Instr} (h : decodeUnpack bd ct = .ok i) :
    (∃ pixel : State → Nat → Rgba, (∀ s, exec i s = .next (unpackRow s (pixel s))) ∧ IgnoresPix pixel) ∨
    (∃ index : State → Nat → Byte, (∀ s, exec i s = .next (unpackIndexed s (index s))) ∧ IgnoresPix index) := by
  unfold decodeUnpack at h
  split at h <;> cases h
  case h_8 | h_9 | h_10 | h_11 => exact .inr ⟨_, fun _ => rfl, fun _ _ => rfl⟩
  all_goals exact .inl ⟨_, fun _ => rfl, fun _ _ => rfl⟩

/-- What an UNPACK operation does under every PIX: it faults, which leaves nothing of PIX, or it writes one and the same row. -/
theorem exec_withPix_of_decodeUnpack {bd ct : Byte} {i : Instr} (h : decodeUnpack bd ct = .ok i) {s : State}
    (hdir : s.cfg.direction = .decode) :
    (∃ u : State, u.status = .faulted ∧ ∀ m, exec i { s with pix := m } = .next u) ∨
    (∃ pixel, ∀ m, exec i { s with pix := m } = .next (unpackRow { s with pix := m } pixel)) := by
  rcases exec_of_decodeUnpack_forall h with ⟨pixel, hx, hpix⟩ | ⟨index, hx, hpix⟩
  · exact .inr ⟨pixel s, fun m => by rw [hx, hpix]⟩
  · cases hbad : firstBadIndex s (index s) with
    | some x =>
      refine .inl ⟨s.raise .paletteIndexRange s.y ((index s x).setWidth 32), rfl, fun m => ?_⟩
      have hbad' : firstBadIndex { s with pix := m } (index s) = some x := hbad
      rw [hx, hpix, unpackIndexed, hbad', ← raise_withPix hdir m]
    | none =>
      refine .inr ⟨fun x => palPixel s (index s x), fun m => ?_⟩
      have hbad' : firstBadIndex { s with pix := m } (index s) = none := hbad
      rw [hx, hpix, unpackIndexed, hbad']
      rfl

theorem finishDecode_withPix (s : State) (m : Memory) :
    State.finishDecode { s with pix := m } = { s.finishDecode with pix := m } := by
  unfold State.finishDecode
  by_cases hy : s.y = s.cfg.height
  · rw [if_pos hy, if_pos hy]
  · rw [if_neg hy, if_neg hy]

/-- The end of a row carries PIX along. -/
theorem endDecodeRow_withPix (s : State) (m : Memory) :
    endDecodeRow { s with pix := m } = { endDecodeRow s with pix := m } := by
  unfold endDecodeRow
  by_cases hs : s.status = .running
  · rw [if_pos hs, if_pos hs]
    exact finishDecode_withPix s.nextRow m
  · rw [if_neg hs, if_neg hs]

/-! ### DECODE_STEP -/

/-- DECODE_STEP over an UNFILT that completes and a mode word without an operation (41_unpack R164). -/
theorem decodeStep_of_decodeUnpack_error {s t u : State} {i : Instr} {e : DecodeError} (hf : fetch s = .ok (i, t))
    (hx : exec i t = .next u) (hm : decodeUnpack u.cfg.bitDepth u.cfg.colorType = .error e) :
    decodeStep s = .next (u.raise .badBitDepth u.y 0) := by
  simp only [decodeStep, hf, hx, andThen_next, decode_mode_decode, hm, Except.map]

/-- DECODE_STEP over an UNFILT that completes and the UNPACK operation of the mode word (44_control R228). -/
theorem decodeStep_of_decodeUnpack_ok {s t u : State} {i k : Instr} (hf : fetch s = .ok (i, t)) (hx : exec i t = .next u)
    (hm : decodeUnpack u.cfg.bitDepth u.cfg.colorType = .ok k) :
    decodeStep s = andThen (exec k u) fun v => .next (endDecodeRow v) := by
  simp only [decodeStep, hf, hx, andThen_next, decode_mode_decode, hm, Except.map]

/-- What DECODE_STEP does under every PIX: it faults, which leaves nothing of PIX, or it writes one and the same row to PIX and gives
the rest of the state the same value. -/
theorem decodeStep_withPix_cases {s : State} (hs : s.status = .running) (hdir : s.cfg.direction = .decode) :
    (∃ u : State, u.status = .faulted ∧ ∀ m, decodeStep { s with pix := m } = .next u) ∨
    (∃ (u : State) (row : List Byte), u.status ≠ .faulted ∧ row.length = s.cfg.width.toNat * 4 ∧
      ∀ m, decodeStep { s with pix := m } = .next { u with pix := m.writeList (pixelBase s.cfg 0 s.y.toNat) row }) := by
  rcases fetch_withPix_cases hdir with ⟨u, hu, hf⟩ | ⟨i, ft, hi, hf⟩
  · exact .inl ⟨u, hu, fun m => by rw [decodeStep, hf m]⟩
  obtain ⟨pred, hp⟩ := exec_of_decodeUnfilt_forall hi
  let v := unfilter pred { s with ft := ft }
  have hunfilt (m : Memory) : exec i { s with ft := ft, pix := m } = .next { v with pix := m } := hp _
  cases hm : decodeUnpack v.cfg.bitDepth v.cfg.colorType with
  | error e =>
    refine .inl ⟨v.raise .badBitDepth v.y 0, rfl, fun m => ?_⟩
    rw [decodeStep_of_decodeUnpack_error (hf m) (hunfilt m) hm]
    exact congrArg _ (raise_withPix (s := v) hdir m .badBitDepth v.y 0)
  | ok k =>
    have hstep (m : Memory) := decodeStep_of_decodeUnpack_ok (hf m) (hunfilt m) hm
    rcases exec_withPix_of_decodeUnpack hm (s := v) hdir with ⟨u, hu, hx⟩ | ⟨pixel, hx⟩
    · refine .inl ⟨u, hu, fun m => ?_⟩
      rw [hstep, hx, andThen_next, endDecodeRow, if_neg (by simp [hu])]
    · refine .inr ⟨endDecodeRow (unpackRow v pixel), rowBytes v pixel, ?_, rowBytes_length v pixel, fun m => ?_⟩
      · rw [(rowCompleted_decode hs ft pred pixel).status]
        split <;> simp
      · rw [hstep, hx, andThen_next]
        exact congrArg _ (endDecodeRow_withPix (unpackRow v pixel) _)

/-- Settles O42: a step that faults gives one state whatever PIX held; any other writes one and the same row into each PIX. -/
theorem decodeIgnoresPix : Obligations.DecodeIgnoresPix := by
  intro s t m hs hdir h first beyond
  rw [engineStep_decode hs hdir] at h
  rw [engineStep_decode (s := { s with pix := m }) hs hdir]
  rcases decodeStep_withPix_cases hs hdir with ⟨u, hu, hstep⟩ | ⟨u, row, hu, hlen, hstep⟩ <;>
    cases (hstep s.pix).symm.trans h
  · exact ⟨t.pix, hstep m, fun _ => rfl, fun hn => absurd hu hn⟩
  · refine ⟨m.writeList first row, hstep m, fun hf => absurd hf hu, fun _ => ⟨fun a hlo hhi => ?_, fun a ha => ?_⟩⟩
    · obtain ⟨j, rfl⟩ := Nat.exists_eq_add_of_le hlo
      have hj : j < row.length := by omega
      exact (Memory.byte_writeList_inside m first row hj).trans (Memory.byte_writeList_inside s.pix first row hj).symm
    · have hout : a < first ∨ first + row.length ≤ a := by omega
      exact ⟨Memory.byte_writeList_outside m first row hout, Memory.byte_writeList_outside s.pix first row hout⟩

end Sys2Proof.Machine
end

section
/-! PROOFS. The rows UNPACK writes (41_unpack): samples and keys as the statements give them, and the row of PIX under each mode, or
the fault at the first index outside the palette. -/

namespace Sys2Proof.Machine

/-! ### Samples and keys (R141 to R144) -/

/-- A sample below 8 bits is a field of its byte, the first sample in the most significant bits (R141). -/
theorem subByteSample_toNat (row : Nat → Byte) {d : Nat} (hd : d ≤ 8) (x : Nat) :
    (subByteSample row d x).toNat = ((row (x / (8 / d))).extractLsb' (8 - d - d * (x % (8 / d))) d).toNat := by
  have hlt (v : Nat) : v % 2 ^ d < 2 ^ 8 := (Nat.mod_lt v (Nat.two_pow_pos d)).trans_le (Nat.pow_le_pow_right (by omega) hd)
  rw [subByteSample, BitVec.toNat_ofNat, Nat.mod_eq_of_lt (hlt _), BitVec.extractLsb'_toNat, Nat.shiftRight_eq_div_pow]

/-- A field of one bit is that bit. -/
theorem extractLsb'_one_toNat (b : Byte) (i : Nat) : (b.extractLsb' i 1).toNat = if b.getLsbD i then 1 else 0 := by
  rw [BitVec.extractLsb'_toNat, Nat.shiftRight_eq_div_pow, Nat.pow_one, ← Nat.toNat_testBit, Bool.toNat, cond_eq_ite]
  rfl

/-- A 1-bit sample is a bit of its byte. -/
theorem subByteSample_one_toNat (row : Nat → Byte) (x : Nat) :
    (subByteSample row 1 x).toNat = if (row (x / 8)).getLsbD (7 - x % 8) then 1 else 0 := by
  rw [subByteSample_toNat row (by omega), Nat.one_mul, extractLsb'_one_toNat]

/-- The gray key is compared with the output byte as a number (R144). -/
theorem keyedGray_eq (c : Cfg) (g : Byte) :
    keyedGray c g = ⟨g, g, g, if c.trnsKind = 1 ∧ c.trnsGray.toNat = g.toNat then 0 else 255⟩ := by
  have hkey : g.setWidth 16 = c.trnsGray ↔ c.trnsGray.toNat = g.toNat := by
    rw [← BitVec.toNat_inj, BitVec.toNat_setWidth_of_le (by omega), eq_comm]
  simp only [keyedGray, grayPixel, grayAlpha, hkey]

/-- The same for a gray level given as a number. -/
theorem keyedGray_ofNat (c : Cfg) {g : Nat} (hg : g < 2 ^ 8) :
    keyedGray c (BitVec.ofNat 8 g) = ⟨BitVec.ofNat 8 g, BitVec.ofNat 8 g, BitVec.ofNat 8 g,
      if c.trnsKind = 1 ∧ c.trnsGray.toNat = g then 0 else 255⟩ := by
  rw [keyedGray_eq, BitVec.toNat_ofNat, Nat.mod_eq_of_lt hg]

/-- `narrow16` reads the high byte of a 16-bit sample, at twice the sample's position (R143). -/
theorem narrow16_mul_add (row : Nat → Byte) (n x j : Nat) : narrow16 row (n * x + j) = row (2 * n * x + 2 * j) := by
  rw [narrow16, Nat.mul_add, Nat.mul_assoc]

theorem narrow16_mul (row : Nat → Byte) (n x : Nat) : narrow16 row (n * x) = row (2 * n * x) :=
  narrow16_mul_add row n x 0

/-! ### The written row (R140) -/

/-- Pixel `x` of row Y after an UNPACK. -/
theorem unpackRow_pixelAt (s : State) (pixel : Nat → Rgba) {x : Nat} (hx : x < s.cfg.width.toNat) :
    pixelAt (unpackRow s pixel) x s.y.toNat = pixel x := by
  have hbyte (j : Nat) (hj : j < 4) := unpackRow_readPix_inside s pixel hx hj
  exact (Rgba.mk.injEq ..).mpr ⟨hbyte 0 (by omega), hbyte 1 (by omega), hbyte 2 (by omega), hbyte 3 (by omega)⟩

theorem pixRowWritten_unpackRow (s : State) (pixel : Nat → Rgba) : PixRowWritten s (unpackRow s pixel) pixel :=
  ⟨unpackRow_frame s pixel, fun _ hx => unpackRow_pixelAt s pixel hx,
    fun _ ha => unpackRow_readPix_outside s pixel (by rwa [Nat.mul_comm])⟩

/-- An operation that writes a row of pixels completes with that row, in whatever form the pixels are given. -/
theorem pixRowWritten_of_exec {i : Instr} {s : State} {pixel pixel' : Nat → Rgba} (hx : exec i s = .next (unpackRow s pixel))
    (h : ∀ x, pixel x = pixel' x) : ∃ t, exec i s = .next t ∧ PixRowWritten s t pixel' :=
  ⟨_, hx, funext h ▸ pixRowWritten_unpackRow s pixel⟩

/-! ### Gray (R145 to R149) -/

/-- Settles O13: the scaled sample stays below 256, so the key is compared with the number itself. -/
theorem unpackSubByteGray : Obligations.UnpackSubByteGray := by
  intro s alpha gray
  refine ⟨⟨hasWord_encode rfl, hasWord_encode rfl, hasWord_encode rfl⟩, pixRowWritten_of_exec rfl fun x => ?_,
    pixRowWritten_of_exec rfl fun x => ?_, pixRowWritten_of_exec rfl fun x => ?_⟩ <;> rw [subByteGray, scaleSample]
  · rw [subByteSample_one_toNat, ite_mul, Nat.one_mul, Nat.zero_mul]
    exact keyedGray_ofNat s.cfg (by split <;> decide)
  · rw [subByteSample_toNat _ (by omega)]
    exact keyedGray_ofNat s.cfg (by have := ((s.cur.byte (x / 4)).extractLsb' (6 - 2 * (x % 4)) 2).isLt; omega)
  · rw [subByteSample_toNat _ (by omega)]
    exact keyedGray_ofNat s.cfg (by have := ((s.cur.byte (x / 2)).extractLsb' (4 - 4 * (x % 2)) 4).isLt; omega)

/-- Settles O14: the gray key enters G8's pixels and not G16's. -/
theorem unpackByteGray : Obligations.UnpackByteGray := by
  intro s
  exact ⟨⟨hasWord_encode rfl, hasWord_encode rfl⟩, pixRowWritten_of_exec rfl fun _ => keyedGray_eq s.cfg _,
    pixRowWritten_of_exec rfl fun _ => rfl⟩

/-! ### Colour and alpha (R150, R151, R156 to R159) -/

/-- Settles O15: RGB8 reads each sample at its own position, RGB16 at twice it. -/
theorem unpackRgbKeyed : Obligations.UnpackRgbKeyed := by
  intro s keyed
  refine ⟨⟨hasWord_encode rfl, hasWord_encode rfl⟩, pixRowWritten_of_exec rfl fun _ => rfl,
    pixRowWritten_of_exec rfl fun x => ?_⟩
  rw [narrow16_mul, narrow16_mul_add, narrow16_mul_add]
  rfl

/-- Settles O16: the 8-bit modes read each sample at its own position, the 16-bit modes at twice it. -/
theorem unpackAlphaModes : Obligations.UnpackAlphaModes := by
  intro s b
  refine ⟨⟨hasWord_encode rfl, hasWord_encode rfl, hasWord_encode rfl, hasWord_encode rfl⟩,
    pixRowWritten_of_exec rfl fun _ => rfl, pixRowWritten_of_exec rfl fun x => ?_,
    pixRowWritten_of_exec rfl fun _ => rfl, pixRowWritten_of_exec rfl fun x => ?_⟩
  · rw [narrow16_mul, narrow16_mul_add]
    rfl
  · rw [narrow16_mul, narrow16_mul_add, narrow16_mul_add, narrow16_mul_add]

/-! ### Palette (R152 to R155, R160, R162) -/

/-- Where every index of the row is below PAL_LEN, the row takes the palette's colours. -/
theorem unpackIndexed_of_lt {s : State} {index : Nat → Byte}
    (h : ∀ x, x < s.cfg.width.toNat → (index x).toNat < s.cfg.palLen.toNat) :
    unpackIndexed s index = unpackRow s fun x => palPixel s (index x) := by
  have hnone : firstBadIndex s index = none :=
    List.find?_eq_none.mpr fun x hx => by simpa using h x (List.mem_range.mp hx)
  rw [unpackIndexed, hnone]

/-- The first index, x ascending, at or above PAL_LEN raises PaletteIndexRange (60_exceptions R246). -/
theorem unpackIndexed_of_first {s : State} {index : Nat → Byte} {x : Nat} (hx : x < s.cfg.width.toNat)
    (hbad : s.cfg.palLen.toNat ≤ (index x).toNat) (hfirst : ∀ x', x' < x → (index x').toNat < s.cfg.palLen.toNat) :
    unpackIndexed s index = s.raise .paletteIndexRange s.y (BitVec.ofNat 32 (index x).toNat) := by
  have hsome : firstBadIndex s index = some x :=
    List.find?_range_eq_some.mpr ⟨by simpa using hbad, List.mem_range.mpr hx, fun x' hx' => by simpa using hfirst x' hx'⟩
  rw [unpackIndexed, hsome, BitVec.ofNat_toNat]

/-- Settles O17: each operation unpacks the row of its depth's indices, and the four share the two cases of an indexed row. -/
theorem unpackPalette : Obligations.UnpackPalette := by
  rintro s b colour ⟨i, bd, index⟩ he
  have hindexed : HasWord (.mode .decode) [bd, 3] i ∧
      ∃ idx : Nat → Byte, exec i s = .next (unpackIndexed s idx) ∧ ∀ x, (idx x).toNat = index x := by
    simp only [List.mem_cons, List.not_mem_nil, or_false, Prod.mk.injEq] at he
    rcases he with ⟨rfl, rfl, rfl⟩ | ⟨rfl, rfl, rfl⟩ | ⟨rfl, rfl, rfl⟩ | ⟨rfl, rfl, rfl⟩
    · exact ⟨hasWord_encode rfl, _, rfl, subByteSample_one_toNat b⟩
    · exact ⟨hasWord_encode rfl, _, rfl, subByteSample_toNat b (by omega)⟩
    · exact ⟨hasWord_encode rfl, _, rfl, subByteSample_toNat b (by omega)⟩
    · exact ⟨hasWord_encode rfl, _, rfl, fun _ => rfl⟩
  obtain ⟨hword, idx, hexec, hidx⟩ := hindexed
  obtain rfl : (fun x => (idx x).toNat) = index := funext hidx
  exact ⟨hword,
    fun hlt => pixRowWritten_of_exec (hexec.trans (congrArg _ (unpackIndexed_of_lt hlt))) fun _ => rfl,
    fun x hx hbad hfirst => hexec.trans (congrArg _ (unpackIndexed_of_first hx hbad hfirst))⟩

end Sys2Proof.Machine
end

section
/-! PROOFS. The forward filter of 42_filter: the scanline each FILT operation writes (R170, R171), and the choice among them (R174,
R177). -/

namespace Sys2Proof.Machine

/-! ### The written scanline (R170, R171) -/

/-- A FILT writes the scanline of its filter-type byte and its predictor. -/
theorem scanlineWritten_filterRow (ft : Byte) (pred : Predictor) (s : State) :
    ScanlineWritten s (filterRow ft pred s) ft (filteredByte pred s.cfg.fu s.cur.byte s.prev.byte) :=
  ⟨filterRow_frame ft pred s, filterRow_readFstream_type ft pred s, fun _ hi => filterRow_readFstream_data ft pred s hi,
    fun _ ha => filterRow_readFstream_outside ft pred s ha⟩

/-- None takes 0 from the raw byte. -/
theorem filteredByte_predNone (fu : Nat) (raw up : Nat → Byte) : filteredByte predNone fu raw up = raw :=
  funext fun i => BitVec.sub_zero (raw i)

/-- Settles O18: one scanline law for the five predictors. -/
theorem filterWritesScanline : Obligations.FilterWritesScanline := by
  intro s raw a b c
  have hnone : ScanlineWritten s (filterRow 0 predNone s) 0 raw :=
    filteredByte_predNone s.cfg.fu raw b ▸ scanlineWritten_filterRow 0 predNone s
  exact ⟨⟨hasWord_encode rfl, hasWord_encode rfl, hasWord_encode rfl, hasWord_encode rfl, hasWord_encode rfl⟩,
    ⟨_, rfl, hnone⟩, ⟨_, rfl, scanlineWritten_filterRow 1 predSub s⟩, ⟨_, rfl, scanlineWritten_filterRow 2 predUp s⟩,
    ⟨_, rfl, scanlineWritten_filterRow 3 predAvg s⟩, ⟨_, rfl, scanlineWritten_filterRow 4 paeth s⟩⟩

/-! ### The choice of a filter (R174, R177) -/

/-- The predictor of a filter type in 1 to 4. -/
def adaptivePredictor (ft : Nat) : Predictor :=
  if ft = 1 then predSub else if ft = 2 then predUp else if ft = 3 then predAvg else paeth

/-- The sum of a filter type in 1 to 4 (R177). -/
def adaptiveSum (s : State) (ft : Nat) : Nat := filterSum (adaptivePredictor ft) s

theorem adaptiveChoice_eq (s : State) : adaptiveChoice s =
    if adaptiveSum s 1 ≤ adaptiveSum s 2 ∧ adaptiveSum s 1 ≤ adaptiveSum s 3 ∧ adaptiveSum s 1 ≤ adaptiveSum s 4 then 1
    else if adaptiveSum s 2 ≤ adaptiveSum s 3 ∧ adaptiveSum s 2 ≤ adaptiveSum s 4 then 2
    else if adaptiveSum s 3 ≤ adaptiveSum s 4 then 3
    else 4 := rfl

/-- The adaptive choice is a filter type in 1 to 4 of least sum, the lowest among equals. -/
theorem adaptiveChoice_least (s : State) : ∃ r, (adaptiveChoice s).toNat = r ∧ (1 ≤ r ∧ r ≤ 4) ∧
    (∀ ft, 1 ≤ ft → ft ≤ 4 → adaptiveSum s r ≤ adaptiveSum s ft) ∧
    ∀ ft, 1 ≤ ft → ft < r → adaptiveSum s r < adaptiveSum s ft := by
  rw [adaptiveChoice_eq]
  split
  · exact ⟨1, rfl, by omega, fun ft _ _ => by interval_cases ft <;> omega, fun ft _ _ => by omega⟩
  split
  · exact ⟨2, rfl, by omega, fun ft _ _ => by interval_cases ft <;> omega, fun ft _ _ => by interval_cases ft; omega⟩
  split
  · exact ⟨3, rfl, by omega, fun ft _ _ => by interval_cases ft <;> omega,
      fun ft _ _ => by interval_cases ft <;> omega⟩
  · exact ⟨4, rfl, by omega, fun ft _ _ => by interval_cases ft <;> omega,
      fun ft _ _ => by interval_cases ft <;> omega⟩

/-- The sum the adaptive choice compares, as a sum over the positions of the row. -/
theorem filterSum_eq_sum (pred : Predictor) (s : State) :
    filterSum pred s = ∑ i ∈ Finset.range s.cfg.rowb, (filteredByte pred s.cfg.fu s.cur.byte s.prev.byte i).toNat := by
  rw [filterSum, filteredRow, List.map_map]
  rfl

/-- Over a zero row PAETH predicts what SUB does (R125), so the two have one sum. -/
theorem filterSum_paeth_of_prev_zero {s : State} (h : ∀ i, i < s.cfg.rowb → s.prev.byte i = 0) :
    filterSum paeth s = filterSum predSub s := by
  have hbyte : ∀ i ∈ List.range s.cfg.rowb, filteredByte paeth s.cfg.fu s.cur.byte s.prev.byte i =
      filteredByte predSub s.cfg.fu s.cur.byte s.prev.byte i := by
    intro i hi
    have hi : i < s.cfg.rowb := List.mem_range.mp hi
    have hupLeft : before s.prev.byte s.cfg.fu i = 0 := by
      unfold before
      split
      · exact h _ (by omega)
      · rfl
    rw [filteredByte, h i hi, hupLeft, paeth_up_eq_upLeft]
    rfl
  rw [filterSum, filteredRow, List.map_congr_left hbyte]
  rfl

theorem chooseFilter_indexed {s : State} (h : s.cfg.colorType = 3) : chooseFilter s = 0 := if_pos h

theorem chooseFilter_fixed {s : State} (h : s.cfg.colorType ≠ 3) (hm : s.cfg.filterMode = 1) :
    chooseFilter s = s.cfg.fixedFilter := (if_neg h).trans (if_pos hm)

theorem chooseFilter_adaptive {s : State} (h : s.cfg.colorType ≠ 3) (hm : s.cfg.filterMode ≠ 1) :
    chooseFilter s = adaptiveChoice s := (if_neg h).trans (if_neg hm)

/-- Settles O20: the adaptive choice is the lowest type of least sum, so over a zero row PAETH, with the sum of SUB, is not it. -/
theorem filterChoice : Obligations.FilterChoice := by
  intro s pred sum r
  refine ⟨chooseFilter_indexed, chooseFilter_fixed, fun hct hmode => ?_⟩
  have hsum (ft : Nat) : sum ft = adaptiveSum s ft := (filterSum_eq_sum (pred ft) s).symm
  obtain ⟨r', hr', hrange, hleast, hlowest⟩ := adaptiveChoice_least s
  obtain rfl : r = r' := (congrArg BitVec.toNat (chooseFilter_adaptive hct hmode)).trans hr'
  simp only [hsum]
  refine ⟨hrange, hleast, hlowest, fun hzero h4 => ?_⟩
  have hlt := hlowest 1 le_rfl (by omega)
  rw [h4] at hlt
  exact hlt.ne (filterSum_paeth_of_prev_zero hzero)

end Sys2Proof.Machine
end

section
/-! PROOFS. The RGBA8 round trip (42_filter R185): an encode run leaves one scanline per row of PIX, filtered under the row above it,
and a decode run recovers each row from its scanline and the row it recovered before (40_unfilter R133). -/

namespace Sys2Proof.Machine

/-! ### The mode RGBA8 (41_unpack R158, 43_pack R191) -/

/-- The mode word of UNPACK.RGBA8 and PACK.RGBA8. -/
structure Cfg.IsRgba8 (c : Cfg) : Prop where
  bitDepth : c.bitDepth = 8
  colorType : c.colorType = 6

/-- The geometry takes the depth as 8 in both directions, so it is one geometry (43_pack R190). -/
theorem Cfg.IsRgba8.depth {c : Cfg} (h : c.IsRgba8) : c.depth = 8 := by
  unfold Cfg.depth
  split
  · rw [h.bitDepth]
    rfl
  · rfl

theorem Cfg.IsRgba8.spp {c : Cfg} (h : c.IsRgba8) : c.spp = 4 :=
  Cfg.spp_of_colorType (congrArg BitVec.toNat h.colorType)

/-- FU is 4. -/
theorem Cfg.IsRgba8.fu {c : Cfg} (h : c.IsRgba8) : c.fu = 4 := Cfg.fu_of_spp_depth h.spp h.depth

/-- ROWB is 4 * WIDTH. -/
theorem Cfg.IsRgba8.rowb {c : Cfg} (h : c.IsRgba8) : c.rowb = c.width.toNat * 4 := by
  rw [Cfg.rowb_of_width_bpp rfl (Cfg.bpp_of_spp_depth h.spp h.depth)]
  omega

/-- SLEN is 1 + 4 * WIDTH. -/
theorem Cfg.IsRgba8.slen {c : Cfg} (h : c.IsRgba8) : c.slen = 1 + c.width.toNat * 4 := by
  rw [Cfg.slen, h.rowb]

/-- An accepted encode configuration of colour type 6 is RGBA8 (30_encoding R101). -/
theorem Cfg.IsRgba8.of_startCheck {c : Cfg} (hdir : c.direction = .encode) (hct : c.colorType = 6)
    (h : startCheck c = none) : c.IsRgba8 := by
  obtain ⟨i, hi⟩ := decodePack_ok_of_startCheck hdir h
  refine ⟨?_, hct⟩
  by_contra hbd
  rw [hct, show decodePack c.bitDepth 6 = .error _ from if_neg hbd] at hi
  cases hi

/-- The checks of START that do not depend on the direction (44_control R224 checks 1 to 3). -/
def Cfg.HeaderChecked (c : Cfg) : Prop :=
  c.filterMethod = 0 ∧ c.interlace = 0 ∧ legalDim c.width = true ∧ legalDim c.height = true

theorem startCheck_decode_eq_none_iff {c : Cfg} (hdir : c.direction = .decode) :
    startCheck c = none ↔ c.HeaderChecked ∧ checkDecode c = none := by
  simp [startCheck, hdir, Cfg.HeaderChecked, ite_eq_iff, and_assoc]

theorem startCheck_encode_eq_none_iff {c : Cfg} (hdir : c.direction = .encode) :
    startCheck c = none ↔ c.HeaderChecked ∧ checkEncode c = none := by
  simp [startCheck, hdir, Cfg.HeaderChecked, ite_eq_iff, and_assoc]

/-- RGBA8 with no transparency key passes the checks of the decode direction (checks 4 to 8). -/
theorem checkDecode_rgba8 {c : Cfg} (hc : c.IsRgba8) (hkey : c.trnsKind = 0) : checkDecode c = none := by
  simp [checkDecode, hc.bitDepth, hc.colorType, hkey, badTransparency, decodeUnpack, Except.map]

/-- Check 10 bounds FIXED_FILTER in fixed mode. -/
theorem fixedFilter_le_four {c : Cfg} (hct : c.colorType = 6) (hmode : c.filterMode = 1) (h : checkEncode c = none) :
    c.fixedFilter.toNat ≤ 4 := by
  by_contra hlt
  have hbad : (c.colorType = 6 ∨ c.colorType = 2) ∧ c.filterMode = 1 ∧ (c.fixedFilterValid = 0 ∨ 4 < c.fixedFilter.toNat) :=
    ⟨.inl hct, hmode, .inr (by omega)⟩
  unfold checkEncode at h
  split at h
  · cases h
  · rw [if_pos hbad] at h
    cases h

/-! ### One filter type in both directions (30_encoding R92) -/

/-- The byte `ft` names the FILT and the UNFILT operation of one predictor. -/
def NamesFilter (ft : Byte) (pred : Predictor) : Prop :=
  (∃ i, decodeFilt ft = .ok i ∧ ∀ s, exec i s = .next (filterRow ft pred s)) ∧
  ∃ i, decodeUnfilt ft = .ok i ∧ ∀ s, exec i s = .next (unfilter pred s)

theorem exists_namesFilter {ft : Byte} (h : ft.toNat ≤ 4) : ∃ pred, NamesFilter ft pred := by
  interval_cases hft : ft.toNat <;> cases byte_eq_ofNat hft
  · exact ⟨predNone, ⟨_, rfl, fun _ => rfl⟩, _, rfl, fun _ => rfl⟩
  · exact ⟨predSub, ⟨_, rfl, fun _ => rfl⟩, _, rfl, fun _ => rfl⟩
  · exact ⟨predUp, ⟨_, rfl, fun _ => rfl⟩, _, rfl, fun _ => rfl⟩
  · exact ⟨predAvg, ⟨_, rfl, fun _ => rfl⟩, _, rfl, fun _ => rfl⟩
  · exact ⟨paeth, ⟨_, rfl, fun _ => rfl⟩, _, rfl, fun _ => rfl⟩

/-- Under a configuration START accepts the chosen filter is one of the five: check 10 bounds FIXED_FILTER (44_control R224). -/
theorem chooseFilter_le_four {s : State} (hdir : s.cfg.direction = .encode) (hc : s.cfg.IsRgba8)
    (h : startCheck s.cfg = none) : (chooseFilter s).toNat ≤ 4 := by
  have hct : s.cfg.colorType ≠ 3 := by simp [hc.colorType]
  by_cases hm : s.cfg.filterMode = 1
  · rw [chooseFilter_fixed hct hm]
    exact fixedFilter_le_four hc.colorType hm ((startCheck_encode_eq_none_iff hdir).mp h).2
  · obtain ⟨r, hr, hrange, -⟩ := adaptiveChoice_least s
    rw [chooseFilter_adaptive hct hm]
    omega

/-! ### The rows of the image -/

/-- The bytes of row `y` of the pixels a packer reads. -/
def rgbaRow (s : State) (y : Nat) : List Byte :=
  (List.range s.cfg.width.toNat).flatMap fun x => pixelBytes (readPixel s x y)

/-- The row above row `y`, all zero above the first (40_unfilter R121). -/
def rgbaRowAbove (s : State) : Nat → List Byte
  | 0 => List.replicate (s.cfg.width.toNat * 4) 0
  | y + 1 => rgbaRow s y

@[simp] theorem rgbaRow_length (s : State) (y : Nat) : (rgbaRow s y).length = s.cfg.width.toNat * 4 :=
  rowBytes_length s fun x => readPixel s x y

@[simp] theorem rgbaRowAbove_length (s : State) (y : Nat) : (rgbaRowAbove s y).length = s.cfg.width.toNat * 4 := by
  cases y <;> simp [rgbaRowAbove]

/-- The rows are read from PIX under the configuration. -/
theorem rgbaRow_congr {s t : State} (hcfg : t.cfg = s.cfg) (hpix : t.pix = s.pix) (y : Nat) : rgbaRow t y = rgbaRow s y := by
  simp only [rgbaRow, readPixel, State.readPix, hcfg, hpix]

/-- Byte `j` of pixel `x`: SRC_ABGR = 1 reverses the four bytes (43_pack R194). -/
theorem rgbaRow_getD (s : State) {x j : Nat} (y : Nat) (hx : x < s.cfg.width.toNat) (hj : j < 4) :
    (rgbaRow s y).getD (4 * x + j) 0 = s.readPix (pixelBase s.cfg x y + if s.cfg.srcAbgr = 0 then j else 3 - j) := by
  rw [rgbaRow, flatMap_range_getD _ 4 (fun _ => rfl) 0 hx hj, readPixel]
  split <;> interval_cases j <;> rfl

/-! ### A scanline of the image -/

/-- A filtered byte reads its own and earlier positions of the two rows only. -/
theorem filteredByte_congr (pred : Predictor) (fu : Nat) {raw raw' up up' : Nat → Byte} {n i : Nat} (hi : i < n)
    (hraw : ∀ j, j < n → raw j = raw' j) (hup : ∀ j, j < n → up j = up' j) :
    filteredByte pred fu raw up i = filteredByte pred fu raw' up' i := by
  have hbefore {row row' : Nat → Byte} (h : ∀ j, j < n → row j = row' j) : before row fu i = before row' fu i := by
    unfold before
    split
    · exact h _ (by omega)
    · rfl
  rw [filteredByte, filteredByte, hraw i hi, hup i hi, hbefore hraw, hbefore hup]

/-- Scanline `y` of the stream `m` is row `y` of the pixels of `s`, filtered under the row above. -/
def HoldsScanline (s : State) (m : Memory) (y : Nat) : Prop :=
  ∃ pred, NamesFilter (m.byte (y * s.cfg.slen)) pred ∧ ∀ i, i < s.cfg.width.toNat * 4 →
    m.byte (y * s.cfg.slen + 1 + i) =
      filteredByte pred 4 (fun j => (rgbaRow s y).getD j 0) (fun j => (rgbaRowAbove s y).getD j 0) i

/-- A scanline stays as long as its SLEN bytes do. -/
theorem HoldsScanline.congr {s : State} (hc : s.cfg.IsRgba8) {m m' : Memory} {y : Nat} (h : HoldsScanline s m y)
    (hm : ∀ a, a < (y + 1) * s.cfg.slen → m'.byte a = m.byte a) : HoldsScanline s m' y := by
  obtain ⟨pred, hname, hdata⟩ := h
  have hend : (y + 1) * s.cfg.slen = y * s.cfg.slen + 1 + s.cfg.width.toNat * 4 := by
    rw [Nat.succ_mul, hc.slen, Nat.add_assoc]
  refine ⟨pred, ?_, fun i hi => ?_⟩
  · rwa [hm _ (by omega)]
  · rw [hm _ (by omega), hdata i hi]

/-- FILT writes the scanline of the row in RAW under the row in RAWPREV. -/
theorem holdsScanline_filterRow {s t : State} {y : Nat} {ft : Byte} {pred : Predictor} (hc : s.cfg.IsRgba8)
    (hcfg : t.cfg = s.cfg) (hip : t.ip = y * s.cfg.slen) (hname : NamesFilter ft pred) (hcur : t.cur.bytes = rgbaRow s y)
    (hprev : t.prev.bytes = rgbaRowAbove s y) : HoldsScanline s (filterRow ft pred t).fstream y := by
  refine ⟨pred, ?_, fun i hi => ?_⟩
  · rw [← hip]
    exact (congrArg (NamesFilter · pred) (filterRow_readFstream_type ft pred t)).mpr hname
  · have hraw (j : Nat) (hj : j < s.cfg.width.toNat * 4) : t.cur.byte j = (rgbaRow s y).getD j 0 := by
      rw [t.cur.byte_of_lt (by rwa [hcur, rgbaRow_length]), hcur]
    have hup (j : Nat) (hj : j < s.cfg.width.toNat * 4) : t.prev.byte j = (rgbaRowAbove s y).getD j 0 := by
      rw [t.prev.byte_of_lt (by rwa [hprev, rgbaRowAbove_length]), hprev]
    rw [← hip, ← filteredByte_congr pred 4 hi hraw hup, ← hc.fu, ← hcfg]
    exact filterRow_readFstream_data ft pred t (by rwa [hcfg, hc.rowb])

/-- UNFILT recovers the row from its scanline and the row above in PREV (40_unfilter R133). -/
theorem unfilter_of_holdsScanline {s t : State} {y : Nat} (hc : t.cfg.IsRgba8) (hwidth : t.cfg.width = s.cfg.width)
    (hip : t.ip = y * s.cfg.slen) (hprev : t.prev.bytes = rgbaRowAbove s y) (h : HoldsScanline s t.fstream y) :
    ∃ pred, NamesFilter (t.readFstream t.ip) pred ∧ (unfilter pred t).cur.bytes = rgbaRow s y := by
  obtain ⟨pred, hname, hdata⟩ := h
  refine ⟨pred, hip ▸ hname, ?_⟩
  have hup (j : Nat) (hj : j < s.cfg.width.toNat * 4) : (rgbaRowAbove s y).getD j 0 = t.prev.byte j := by
    rw [t.prev.byte_of_lt (by rwa [hprev, rgbaRowAbove_length]), hprev]
  have hrowb : t.cfg.rowb = s.cfg.width.toNat * 4 := by rw [hc.rowb, hwidth]
  calc (unfilter pred t).cur.bytes
      = recoverRow pred 4 (fun i => t.readFstream (y * s.cfg.slen + 1 + i)) t.prev.byte (s.cfg.width.toNat * 4) := by
        rw [← hrowb, ← hip, ← hc.fu]
        rfl
    _ = recoverRow pred 4 (filteredByte pred 4 (fun j => (rgbaRow s y).getD j 0) t.prev.byte) t.prev.byte
          (s.cfg.width.toNat * 4) :=
        recoverRow_congr pred 4 _ fun i hi => (hdata i hi).trans (filteredByte_congr pred 4 hi (fun _ _ => rfl) hup)
    _ = (List.range (s.cfg.width.toNat * 4)).map fun j => (rgbaRow s y).getD j 0 :=
        recoverRow_filteredByte pred (by omega) _ _ _
    _ = rgbaRow s y := by
        refine List.ext_getElem (by simp) fun i hi hi' => ?_
        rw [List.getElem_map, List.getElem_range, List.getD_eq_getElem _ _ hi']

/-! ### A run, row by row -/

/-- What a turn of the engine carries from row `n` to row `n + 1` while Running, `N` turns carry from row 0 to row `N`. -/
theorem runRows_induction {P : Nat → State → Prop} {N : Nat} {s : State} (hzero : P 0 s)
    (hsucc : ∀ n t, n < N → P n t → t.status = .running ∧ ∃ u, engineStep t = .next u ∧ P (n + 1) u) :
    ∃ t, runRows N s = .next t ∧ P N t := by
  have upTo (n : Nat) (hn : n ≤ N) : ∃ t, runRows n s = .next t ∧ P n t := by
    induction n with
    | zero => exact ⟨s, rfl, hzero⟩
    | succ n ih =>
      obtain ⟨t, hrun, ht⟩ := ih (by omega)
      obtain ⟨hs, u, hu, hPu⟩ := hsucc n t hn ht
      refine ⟨u, ?_, hPu⟩
      rw [runRows_add, hrun, andThen_next, runRows, if_pos hs, hu]
      rfl
  exact upTo N le_rfl

/-- A START whose checks pass is accepted (44_control R223). -/
theorem execStart_of_check_passes {s : State} (hmay : MayStart s) (h : startCheck s.cfg = none) :
    execStart s = acceptStart s := by
  rcases hmay with hs | hs <;> simp only [execStart, hs, h]

/-- A run of `step` that begins with the host's last move, a START of a mode without a prelude, is a run of rows. -/
theorem run_of_start {s : State} (hmay : MayStart s) (hp : s.pending = [.cmd 1]) (hct : s.cfg.colorType ≠ 3)
    (hcheck : startCheck s.cfg = none) (n : Nat) :
    Host.Core.run core (1 + n) s = runRows n (initRun { s with pending := [] }) := by
  have hstep : core.step s = .next (initRun { s with pending := [] }) :=
    calc step s = exec .start { s with pending := [] } := step_of_command (code := 1) rfl rfl hp
      _ = acceptStart { s with pending := [] } := execStart_of_check_passes hmay hcheck
      _ = .next (initRun { s with pending := [] }) := if_neg fun h => hct h.2
  rw [Nat.add_comm, run_succ_of_step hstep]
  exact run_eq_runRows rfl n

/-- `t` stands before row `n` of a run over the rows of `s`, in either direction. -/
structure AtRow (s t : State) (n : Nat) : Prop where
  y : t.y.toNat = n
  ip : t.ip = n * s.cfg.slen
  prev : t.prev.bytes = rgbaRowAbove s n
  status : t.status = if n = s.cfg.height.toNat then .done else .running

/-- The run that START has begun stands before row 0. -/
theorem atRow_initRun {s w : State} (hrowb : w.cfg.rowb = s.cfg.width.toNat * 4) (hheight : 0 < s.cfg.height.toNat) :
    AtRow s (initRun w) 0 where
  y := rfl
  ip := (Nat.zero_mul _).symm
  prev := congrArg (List.replicate · 0) hrowb
  status := (if_neg hheight.ne).symm

theorem AtRow.running {s t : State} {n : Nat} (h : AtRow s t n) (hn : n < s.cfg.height.toNat) : t.status = .running :=
  h.status.trans (if_neg hn.ne)

/-- A completed row moves the run to the next one. -/
theorem AtRow.succ {s t u : State} {n : Nat} (h : AtRow s t n) (hn : n < s.cfg.height.toNat)
    (hheight : t.cfg.height = s.cfg.height) (hslen : t.cfg.slen = s.cfg.slen) (hrow : RowCompleted t u)
    (hcur : u.cur.bytes = rgbaRow s n) : AtRow s u (n + 1) := by
  have hy : u.y.toNat = n + 1 := by rw [hrow.y_toNat (by rwa [h.y, hheight]), h.y]
  refine ⟨hy, ?_, ?_, ?_⟩
  · rw [hrow.ip, h.ip, hslen, Nat.succ_mul]
  · rw [hrow.prev, hcur]
    rfl
  · simp only [hrow.status, hheight, ← BitVec.toNat_inj, hy]

/-! ### The encode run (44_control R229) -/

/-- `t` stands before row `n` of the encode run over `s`: FSTREAM holds the scanlines of the rows above, and at the end FSTREAM_LEN
has been written. -/
structure EncodedTo (s t : State) (n : Nat) : Prop extends AtRow s t n where
  cfg_running : n < s.cfg.height.toNat → t.cfg = s.cfg
  cfg_done : n = s.cfg.height.toNat → t.cfg = { s.cfg with fstreamLen := s.cfg.height.toNat * s.cfg.slen }
  pix : t.pix = s.pix
  scanlines : ∀ y, y < n → HoldsScanline s t.fstream y

/-- ENCODE_STEP in RGBA8 packs the row and writes its scanline under the chosen filter. -/
theorem encodeStep_rgba8 {s : State} {row : List Byte} {ft : Byte} {pred : Predictor} (hc : s.cfg.IsRgba8)
    (hs : s.status = .running) (hrow : rgbaRow s s.y.toNat = row) (hft : chooseFilter (s.setCur row) = ft)
    (hname : NamesFilter ft pred) :
    encodeStep s = .next (filterRow ft pred { s.setCur row with ft := ft }).nextRow.finishEncode := by
  obtain ⟨⟨i, hi, hfilt⟩, -⟩ := hname
  have hmode : decodePack s.cfg.bitDepth s.cfg.colorType = .ok .packRgba8 := by
    rw [hc.bitDepth, hc.colorType]
    rfl
  have hpack : exec .packRgba8 s = .next (s.setCur row) := by
    rw [← hrow]
    rfl
  have hs' : (s.setCur row).status = .running := hs
  simp only [encodeStep, decode_mode_encode, hmode, Except.map, hpack, andThen_next, if_pos hs', encodeScanline, hft,
    decode_scanline_encode, hi, hfilt]

/-- The engine's turn executes row `n` of the encode run. -/
theorem EncodedTo.succ {s t : State} {n : Nat} (hdir : s.cfg.direction = .encode) (hc : s.cfg.IsRgba8)
    (hcheck : startCheck s.cfg = none) (hn : n < s.cfg.height.toNat) (h : EncodedTo s t n) :
    t.status = .running ∧ ∃ u, engineStep t = .next u ∧ EncodedTo s u (n + 1) := by
  have hs := h.running hn
  have hcfg : t.cfg = s.cfg := h.cfg_running hn
  have hrow : rgbaRow t t.y.toNat = rgbaRow s n := by rw [h.y, rgbaRow_congr hcfg h.pix]
  obtain ⟨pred, hname⟩ : ∃ pred, NamesFilter (chooseFilter (t.setCur (rgbaRow s n))) pred :=
    exists_namesFilter (chooseFilter_le_four (hcfg ▸ hdir) (hcfg ▸ hc) (hcfg ▸ hcheck))
  have hstep := (engineStep_encode hs (hcfg ▸ hdir)).trans (encodeStep_rgba8 (hcfg ▸ hc) hs hrow rfl hname)
  generalize chooseFilter (t.setCur (rgbaRow s n)) = ft at hname hstep
  let v : State := { t.setCur (rgbaRow s n) with ft := ft }
  have hrowb : (rgbaRow s n).length = t.cfg.rowb := by rw [rgbaRow_length, hcfg, hc.rowb]
  have hfiltered : RowFiltered t (filterRow ft pred v).nextRow.finishEncode := rowFiltered_finishEncode hs hrowb ft ft pred
  have hat : AtRow s (filterRow ft pred v).nextRow.finishEncode (n + 1) := h.toAtRow.succ hn (by rw [hcfg]) (by rw [hcfg])
    hfiltered.toRowCompleted (by rw [State.finishEncode_cur]; rfl)
  refine ⟨hs, _, hstep,
    { toAtRow := hat
      cfg_running := fun hn' => (hfiltered.cfg (hat.running hn')).trans hcfg
      cfg_done := fun hlast => ?_
      pix := hfiltered.pix.trans h.pix
      scanlines := fun y hy => ?_ }⟩
  · have hheight : v.nextRow.y = v.nextRow.cfg.height := BitVec.eq_of_toNat_eq <|
      calc v.nextRow.y.toNat = n + 1 := by rw [← hat.y, State.finishEncode_y]; rfl
        _ = v.nextRow.cfg.height.toNat := by rw [hlast, ← hcfg]; rfl
    rw [State.finishEncode_cfg, ← hcfg]
    exact if_pos hheight
  · rw [State.finishEncode_fstream]
    rcases Nat.lt_succ_iff_lt_or_eq.mp hy with hlt | rfl
    · refine (h.scanlines y hlt).congr hc fun a ha => filterRow_readFstream_outside ft pred v (.inl ?_)
      calc a < (y + 1) * s.cfg.slen := ha
        _ ≤ n * s.cfg.slen := Nat.mul_le_mul_right _ hlt
        _ = v.ip := h.ip.symm
    · exact holdsScanline_filterRow (t := v) hc hcfg h.ip hname rfl h.prev

/-- The encode run over `s` leaves the scanlines of every row. -/
theorem exists_encodedTo_height {s : State} (hmay : MayStart s) (hp : s.pending = [.cmd 1]) (hdir : s.cfg.direction = .encode)
    (hc : s.cfg.IsRgba8) (hcheck : startCheck s.cfg = none) :
    ∃ t, Host.Core.run core (1 + s.cfg.height.toNat) s = .next t ∧ EncodedTo s t s.cfg.height.toNat := by
  have hheight := height_pos_of_startCheck hcheck
  rw [run_of_start hmay hp (by simp [hc.colorType]) hcheck]
  have hzero : EncodedTo s (initRun { s with pending := [] }) 0 :=
    { toAtRow := atRow_initRun hc.rowb hheight
      cfg_running := fun _ => rfl
      cfg_done := fun h => absurd h hheight.ne
      pix := rfl
      scanlines := fun _ hy => absurd hy (Nat.not_lt_zero _) }
  exact runRows_induction hzero fun n t hn h => EncodedTo.succ hdir hc hcheck hn h

/-! ### The decode run (44_control R228) -/

/-- The pixel UNPACK.RGBA8 takes from CUR (41_unpack R158). -/
def rgbaPixel (s : State) (x : Nat) : Rgba :=
  ⟨s.cur.byte (4 * x), s.cur.byte (4 * x + 1), s.cur.byte (4 * x + 2), s.cur.byte (4 * x + 3)⟩

/-- UNPACK.RGBA8 copies CUR to row Y of PIX. -/
theorem unpackRow_rgbaPixel_readPix (s : State) {i : Nat} (hi : i < s.cfg.width.toNat * 4) :
    (unpackRow s (rgbaPixel s)).readPix (pixelBase s.cfg 0 s.y.toNat + i) = s.cur.byte i := by
  obtain ⟨x, j, hj, rfl⟩ : ∃ x j, j < 4 ∧ i = 4 * x + j := ⟨i / 4, i % 4, Nat.mod_lt _ (by omega), (Nat.div_add_mod i 4).symm⟩
  have hbase : pixelBase s.cfg 0 s.y.toNat + (4 * x + j) = pixelBase s.cfg x s.y.toNat + j := by
    simp only [pixelBase]
    ring
  rw [hbase, unpackRow_readPix_inside s _ (by omega) hj]
  interval_cases j <;> rfl

/-- DECODE_STEP in RGBA8 over a whole scanline whose filter-type byte names a filter. -/
theorem decodeStep_rgba8 {s : State} {pred : Predictor} (hc : s.cfg.IsRgba8) (hs : s.status = .running)
    (hwhole : s.ip + s.cfg.slen ≤ s.cfg.fstreamLen) (hname : NamesFilter (s.readFstream s.ip) pred) :
    let v := unfilter pred { s with ft := s.readFstream s.ip }
    decodeStep s = .next (unpackRow v (rgbaPixel v)).nextRow.finishDecode := by
  intro v
  obtain ⟨-, i, hi, hunfilt⟩ := hname
  have hfetch := fetch_of_whole (by rw [hc.slen] at hwhole; omega) hi hwhole
  have hmode : decodeUnpack s.cfg.bitDepth s.cfg.colorType = .ok .unpackRgba8 := by
    rw [hc.bitDepth, hc.colorType]
    rfl
  rw [decodeStep_of_decodeUnpack_ok hfetch (hunfilt _) hmode]
  exact congrArg _ (endDecodeRow_of_running (s := unpackRow v (rgbaPixel v)) hs)

/-- PIX of `t` holds the rows of `s` above row `n`. -/
def HoldsRows (s t : State) (n : Nat) : Prop :=
  ∀ y i, y < n → i < s.cfg.width.toNat * 4 → t.readPix (pixelBase s.cfg 0 y + i) = (rgbaRow s y).getD i 0

/-- UNPACK.RGBA8 with row `n` in CUR adds that row. -/
theorem HoldsRows.succ {s t : State} {n : Nat} (h : HoldsRows s t n) (hwidth : t.cfg.width = s.cfg.width) (hy : t.y.toNat = n)
    (hcur : t.cur.bytes = rgbaRow s n) : HoldsRows s (unpackRow t (rgbaPixel t)) (n + 1) := by
  have hbase (y : Nat) : pixelBase s.cfg 0 y = pixelBase t.cfg 0 y := by rw [pixelBase, pixelBase, hwidth]
  intro y i hlt hi
  rcases Nat.lt_succ_iff_lt_or_eq.mp hlt with hlt | rfl
  · have habove : pixelBase s.cfg 0 y + i < pixelBase t.cfg 0 t.y.toNat :=
      calc pixelBase s.cfg 0 y + i < pixelBase s.cfg 0 (y + 1) := by rw [pixelBase_succ_row]; omega
        _ ≤ pixelBase s.cfg 0 n := pixelBase_row_mono s.cfg hlt
        _ = pixelBase t.cfg 0 t.y.toNat := by rw [hbase, hy]
    rw [unpackRow_readPix_outside t _ (.inl habove), h y i hlt hi]
  · rw [hbase, ← hy, unpackRow_rgbaPixel_readPix t (by rwa [hwidth]), hy,
      t.cur.byte_of_lt (by rwa [hcur, rgbaRow_length]), hcur]

/-- A whole image in PIX, pixel by pixel. -/
theorem HoldsRows.readPix {s t : State} (h : HoldsRows s t s.cfg.height.toNat) {p j : Nat}
    (hp : p < s.cfg.width.toNat * s.cfg.height.toNat) (hj : j < 4) :
    t.readPix (4 * p + j) = s.readPix (4 * p + if s.cfg.srcAbgr = 0 then j else 3 - j) := by
  obtain ⟨x, y, hx, hy, rfl⟩ : ∃ x y, x < s.cfg.width.toNat ∧ y < s.cfg.height.toNat ∧ p = s.cfg.width.toNat * y + x :=
    ⟨p % s.cfg.width.toNat, p / s.cfg.width.toNat, Nat.mod_lt p (Nat.pos_of_lt_mul_right hp), Nat.div_lt_of_lt_mul hp,
      (Nat.div_add_mod p _).symm⟩
  have hrow : 4 * (s.cfg.width.toNat * y + x) + j = pixelBase s.cfg 0 y + (4 * x + j) := by
    simp only [pixelBase]
    ring
  have hpixel : 4 * (s.cfg.width.toNat * y + x) = pixelBase s.cfg x y := by
    simp only [pixelBase]
    ring
  rw [hrow, h y _ hy (by omega), rgbaRow_getD s y hx hj, hpixel]

/-- In `w` FSTREAM holds the image of `s` for a decode run in RGBA8. -/
structure HoldsImage (s w : State) : Prop where
  rgba8 : w.cfg.IsRgba8
  direction : w.cfg.direction = .decode
  width : w.cfg.width = s.cfg.width
  height : w.cfg.height = s.cfg.height
  length : w.cfg.fstreamLen = s.cfg.height.toNat * s.cfg.slen
  slen : w.cfg.slen = s.cfg.slen
  scanlines : ∀ y, y < s.cfg.height.toNat → HoldsScanline s w.fstream y

/-- `t` stands before row `n` of the decode run of `w`: PIX holds the rows of `s` above. -/
structure DecodedTo (s w t : State) (n : Nat) : Prop extends AtRow s t n where
  cfg : t.cfg = w.cfg
  fstream : t.fstream = w.fstream
  rows : HoldsRows s t n

/-- The engine's turn executes row `n` of the decode run. -/
theorem DecodedTo.succ {s w t : State} {n : Nat} (hw : HoldsImage s w) (hn : n < s.cfg.height.toNat) (h : DecodedTo s w t n) :
    t.status = .running ∧ ∃ u, engineStep t = .next u ∧ DecodedTo s w u (n + 1) := by
  have hs := h.running hn
  have hcfg := h.cfg
  have hc : t.cfg.IsRgba8 := hcfg ▸ hw.rgba8
  have hwidth : t.cfg.width = s.cfg.width := hcfg ▸ hw.width
  have hwhole : t.ip + t.cfg.slen ≤ t.cfg.fstreamLen := by
    rw [hcfg, hw.length, hw.slen, h.ip, ← Nat.succ_mul]
    exact Nat.mul_le_mul_right _ hn
  let f : State := { t with ft := t.readFstream t.ip }
  obtain ⟨pred, hname, hcur⟩ :=
    unfilter_of_holdsScanline (t := f) hc hwidth h.ip h.prev ((congrArg (HoldsScanline s · n) h.fstream).mpr (hw.scanlines n hn))
  let v := unfilter pred f
  have hstep := (engineStep_decode hs (hcfg ▸ hw.direction)).trans (decodeStep_rgba8 hc hs hwhole hname)
  have hunpacked : RowUnpacked t (unpackRow v (rgbaPixel v)).nextRow.finishDecode :=
    endDecodeRow_of_running (s := unpackRow v (rgbaPixel v)) hs ▸ rowUnpacked_endDecodeRow hs _ pred (rgbaPixel v)
  refine ⟨hs, _, hstep,
    { toAtRow := h.toAtRow.succ hn (hcfg ▸ hw.height) (hcfg ▸ hw.slen) hunpacked.toRowCompleted
        (by rw [State.finishDecode_cur]; exact hcur)
      cfg := by rw [State.finishDecode_cfg]; exact hcfg
      fstream := hunpacked.fstream.trans h.fstream
      rows := ?_ }⟩
  unfold HoldsRows
  simp only [State.readPix, State.finishDecode_pix]
  exact HoldsRows.succ (t := v) h.rows hwidth h.y hcur

/-- A decode run over the scanlines of the image of `s` leaves its rows in PIX. -/
theorem exists_decodedTo_height {s w : State} (hmay : MayStart w) (hp : w.pending = [.cmd 1]) (hcheck : startCheck w.cfg = none)
    (hw : HoldsImage s w) :
    ∃ t, Host.Core.run core (1 + s.cfg.height.toNat) w = .next t ∧ DecodedTo s w t s.cfg.height.toNat := by
  have hheight : 0 < s.cfg.height.toNat := hw.height ▸ height_pos_of_startCheck hcheck
  rw [run_of_start hmay hp (by simp [hw.rgba8.colorType]) hcheck]
  have hzero : DecodedTo s w (initRun { w with pending := [] }) 0 :=
    { toAtRow := atRow_initRun (hw.rgba8.rowb.trans (by rw [hw.width])) hheight
      cfg := rfl
      fstream := rfl
      rows := fun _ _ hy => absurd hy (Nat.not_lt_zero _) }
  exact runRows_induction hzero fun n t hn h => DecodedTo.succ hw hn h

/-! ### The round trip (42_filter R185) -/

/-- The image an encode run has left is one for the decode run that the host begins by DIR and TRNS_KIND. -/
theorem EncodedTo.holdsImage {s t w : State} (hc : s.cfg.IsRgba8) (h : EncodedTo s t s.cfg.height.toNat)
    (hcfg : w.cfg = { t.cfg with dir := 0, trnsKind := 0 }) (hfstream : w.fstream = t.fstream) : HoldsImage s w := by
  have hcfg' := hcfg.trans (by rw [h.cfg_done rfl])
  have hrgba8 : w.cfg.IsRgba8 := hcfg' ▸ ⟨hc.bitDepth, hc.colorType⟩
  exact
    { rgba8 := hrgba8
      direction := hcfg' ▸ rfl
      width := hcfg' ▸ rfl
      height := hcfg' ▸ rfl
      length := hcfg' ▸ rfl
      slen := by rw [hrgba8.slen, hc.slen, hcfg']
      scanlines := hfstream ▸ h.scanlines }

/-- The decode configuration passes the checks of START when the encode configuration did. -/
theorem EncodedTo.startCheck_decode {s t : State} (hdir : s.cfg.direction = .encode) (hc : s.cfg.IsRgba8)
    (hcheck : startCheck s.cfg = none) (h : EncodedTo s t s.cfg.height.toNat) :
    startCheck { t.cfg with dir := 0, trnsKind := 0 } = none := by
  obtain ⟨hheader, -⟩ := (startCheck_encode_eq_none_iff hdir).mp hcheck
  rw [h.cfg_done rfl]
  exact (startCheck_decode_eq_none_iff rfl).mpr ⟨hheader, checkDecode_rgba8 ⟨hc.bitDepth, hc.colorType⟩ rfl⟩

/-- Settles O57: the encode run leaves the scanlines of the image, and the decode run puts their rows into PIX. -/
theorem rgba8RoundTrip : Obligations.Rgba8RoundTrip := by
  intro s hmay hp hdir hct hcheck
  have hencode : s.cfg.direction = .encode := if_pos hdir
  have hc := Cfg.IsRgba8.of_startCheck hencode hct hcheck
  obtain ⟨t, hrun, ht⟩ := exists_encodedTo_height hmay hp hencode hc hcheck
  have hdone : t.status = .done := ht.status.trans (if_pos rfl)
  refine ⟨t, hrun, hdone, by rw [ht.cfg_done rfl], fun m => ?_⟩
  obtain ⟨u, hrun', hu⟩ := exists_decodedTo_height
    (w := { t with cfg := { t.cfg with dir := 0, trnsKind := 0 }, pix := m, pending := [.cmd 1] }) (.inr hdone) rfl
    (ht.startCheck_decode hencode hc hcheck) (ht.holdsImage hc rfl rfl)
  exact ⟨u, hrun', hu.status.trans (if_pos rfl), fun p j hp hj => hu.rows.readPix hp hj⟩

end Sys2Proof.Machine
end

section
/-! PROOFS. The encode geometry of 43_pack R190, and the rows of the true-colour packers (R191, R192, R194). -/

namespace Sys2Proof.Machine

/-- Settles O9: the depth being 8, FU is SPP, and ROWB is exact. -/
theorem encodeGeometryTable : Obligations.EncodeGeometryTable := by
  intro c w hdir hw e he hct
  have hspp := Cfg.spp_of_colorType hct
  have hdepth : c.depth = 8 := by simp [Cfg.depth, hdir]
  rw [Cfg.slen, Cfg.rowb_encode hdir, Cfg.fu_encode hdir, Cfg.bpp_of_spp_depth hspp hdepth, hspp, hw, Nat.mul_comm w]
  simp only [List.mem_cons, List.not_mem_nil, or_false] at he
  rcases he with rfl | rfl | rfl <;> simp [sppOf]

/-! ### RAW after a packer -/

/-- A packer that completes fills RAW with its bytes. -/
theorem rawFilled_setCur {s : State} {row : List Byte} {n : Nat} {value : Nat → Byte} (hlen : row.length = n)
    (h : ∀ i, i < n → row.getD i 0 = value i) : RawFilled s (s.setCur row) n value :=
  ⟨rfl, hlen, fun i hi => (RowBuf.byte_of_lt _ (hi.trans_eq hlen.symm)).trans (h i hi)⟩

/-- Byte `j` of a source pixel: SRC_ABGR = 1 reverses the four bytes (R194). -/
theorem pixelBytes_readPixel_getD (s : State) (x y : Nat) {j : Nat} (hj : j < 4) :
    (pixelBytes (readPixel s x y)).getD j 0 =
      s.readPix ((y * s.cfg.width.toNat + x) * 4 + if s.cfg.srcAbgr = 0 then j else 3 - j) := by
  rw [readPixel]
  split <;> interval_cases j <;> rfl

/-- A true-colour packer that takes the first `k` bytes of each pixel fills RAW with those channels. -/
theorem rawFilled_packRow (s : State) {bytes : Rgba → List Byte} {k : Nat} (hk : k ≤ 4)
    (hbytes : ∀ p, bytes p = (pixelBytes p).take k) :
    RawFilled s (packRow s bytes) (k * s.cfg.width.toNat) fun i =>
      s.readPix ((s.y.toNat * s.cfg.width.toNat + i / k) * 4 + if s.cfg.srcAbgr = 0 then i % k else 3 - i % k) := by
  have hlen (p : Rgba) : (bytes p).length = k := by
    rw [hbytes, List.length_take, pixelBytes_length, Nat.min_eq_left hk]
  refine rawFilled_setCur ((packRow_length s bytes k hlen).trans (Nat.mul_comm _ _)) fun i hi => ?_
  have hpos : 0 < k := Nat.pos_of_lt_mul_right hi
  have hj : i % k < k := Nat.mod_lt i hpos
  calc (packRow s bytes).cur.bytes.getD i 0
      = (packRow s bytes).cur.bytes.getD (k * (i / k) + i % k) 0 := by rw [Nat.div_add_mod]
    _ = (bytes (readPixel s (i / k) s.y.toNat)).getD (i % k) 0 :=
        packRow_getD s bytes k hlen (Nat.div_lt_of_lt_mul hi) hj
    _ = (pixelBytes (readPixel s (i / k) s.y.toNat)).getD (i % k) 0 := by
        rw [hbytes, List.getD_eq_getElem?_getD, List.getElem?_take_of_lt hj, ← List.getD_eq_getElem?_getD]
    _ = _ := pixelBytes_readPixel_getD s _ _ (by omega)

/-- Settles O21: PACK.RGBA8 takes the four bytes of each pixel, PACK.RGB8 the first three. -/
theorem packTrueColour : Obligations.PackTrueColour := by
  intro s channel
  exact ⟨⟨hasWord_encode rfl, hasWord_encode rfl⟩, ⟨_, rfl, rawFilled_packRow s (by omega) fun _ => rfl⟩,
    ⟨_, rfl, rawFilled_packRow s (by omega) fun _ => rfl⟩⟩

end Sys2Proof.Machine
end

section
/-! PROOFS. The palette of an image in 43_pack: the scan (R196, R197), the depth and the limit (R199, R200), the closest pair (R202,
R203) and the reduction (R202). -/

namespace Sys2Proof.Machine

/-! ### The pixels in row-major order (R196) -/

theorem allPixels_length (s : State) : (allPixels s).length = s.cfg.width.toNat * s.cfg.height.toNat := by
  rw [allPixels, flatMap_length_const _ s.cfg.width.toNat (fun _ => by simp), List.length_range, Nat.mul_comm]

theorem allPixels_getElem? (s : State) {x y : Nat} (hx : x < s.cfg.width.toNat) (hy : y < s.cfg.height.toNat) :
    (allPixels s)[y * s.cfg.width.toNat + x]? = some (readPixel s x y) := by
  have hlt : s.cfg.width.toNat * y + x < (allPixels s).length := by rw [allPixels_length]; nlinarith
  have hget := flatMap_range_getD (fun y => (List.range s.cfg.width.toNat).map fun x => readPixel s x y) s.cfg.width.toNat
    (fun _ => by simp) (readPixel s x y) hy hx
  rw [← allPixels, List.getD_eq_getElem _ _ hlt] at hget
  rw [Nat.mul_comm, List.getElem?_eq_getElem hlt, hget]
  simp [hx]

theorem readPixel_mem_allPixels (s : State) {x y : Nat} (hx : x < s.cfg.width.toNat) (hy : y < s.cfg.height.toNat) :
    readPixel s x y ∈ allPixels s :=
  List.mem_of_getElem? (allPixels_getElem? s hx hy)

/-! ### The palette scan (R196, R197) -/

theorem scanPalette_cons_of_mem (cap : Option Nat) {e : List Rgba} {c : Rgba} (cs : List Rgba) (h : c ∈ e) :
    scanPalette cap e (c :: cs) = scanPalette cap e cs := by
  simp [scanPalette, h]

theorem scanPalette_none_cons {e : List Rgba} {c : Rgba} (cs : List Rgba) (h : c ∉ e) :
    scanPalette none e (c :: cs) = scanPalette none (e ++ [c]) cs := by
  simp [scanPalette, h]

theorem scanPalette_some_cons (n : Nat) {e : List Rgba} {c : Rgba} (cs : List Rgba) (h : c ∉ e) :
    scanPalette (some n) e (c :: cs) = if n ≤ e.length then none else scanPalette (some n) (e ++ [c]) cs := by
  simp [scanPalette, h]

/-- `e` lists each colour of `cs` once, in the order of first appearance. -/
structure FirstAppearances (cs e : List Rgba) : Prop where
  nodup : e.Nodup
  mem_iff : ∀ c, c ∈ e ↔ c ∈ cs
  order : e.Pairwise fun a b => cs.idxOf a < cs.idxOf b

theorem firstAppearances_nil : FirstAppearances [] [] := ⟨.nil, fun _ => .rfl, .nil⟩

/-- The positions of first appearance stay when a colour is appended. -/
theorem FirstAppearances.order_append {cs e : List Rgba} (h : FirstAppearances cs e) (c : Rgba) :
    e.Pairwise fun a b => (cs ++ [c]).idxOf a < (cs ++ [c]).idxOf b := by
  refine h.order.imp_of_mem fun ha hb hab => ?_
  rwa [List.idxOf_append_of_mem ((h.mem_iff _).mp ha), List.idxOf_append_of_mem ((h.mem_iff _).mp hb)]

/-- A colour the palette holds changes nothing. -/
theorem FirstAppearances.seen {cs e : List Rgba} {c : Rgba} (h : FirstAppearances cs e) (hc : c ∈ e) :
    FirstAppearances (cs ++ [c]) e where
  nodup := h.nodup
  mem_iff d := by
    rw [List.mem_append, List.mem_singleton, ← h.mem_iff, iff_self_or]
    rintro rfl
    exact hc
  order := h.order_append c

/-- A colour the palette does not hold is appended. -/
theorem FirstAppearances.new {cs e : List Rgba} {c : Rgba} (h : FirstAppearances cs e) (hc : c ∉ e) :
    FirstAppearances (cs ++ [c]) (e ++ [c]) where
  nodup := List.concat_eq_append ▸ h.nodup.concat hc
  mem_iff d := by simp only [List.mem_append, h.mem_iff]
  order := by
    refine List.pairwise_append.mpr ⟨h.order_append c, List.pairwise_singleton _ c, fun a ha b hb => ?_⟩
    have ha : a ∈ cs := (h.mem_iff a).mp ha
    have hc : c ∉ cs := mt (h.mem_iff c).mpr hc
    rw [List.mem_singleton.mp hb, List.idxOf_append_of_mem ha, List.idxOf_append_of_notMem hc]
    exact (List.idxOf_lt_length_of_mem ha).trans_le (Nat.le_add_right ..)

/-- The scan goes on from the first appearances of the colours it has passed to those of all. -/
theorem FirstAppearances.scan {cs e : List Rgba} (h : FirstAppearances cs e) (more : List Rgba) :
    ∃ e', scanPalette none e more = some e' ∧ FirstAppearances (cs ++ more) e' := by
  induction more generalizing cs e with
  | nil => exact ⟨e, rfl, by rwa [List.append_nil]⟩
  | cons c more ih =>
    rw [List.append_cons]
    by_cases hc : c ∈ e
    · rw [scanPalette_cons_of_mem none more hc]
      exact ih (h.seen hc)
    · rw [scanPalette_none_cons more hc]
      exact ih (h.new hc)

theorem firstAppearances_of_scanPalette {cs e : List Rgba} (h : scanPalette none [] cs = some e) : FirstAppearances cs e := by
  obtain ⟨e', he', hfirst⟩ := firstAppearances_nil.scan cs
  cases he'.symm.trans h
  exact hfirst

/-- The scan drops no entry. -/
theorem scanPalette_length_le {e e' cs : List Rgba} (h : scanPalette none e cs = some e') : e.length ≤ e'.length := by
  induction cs generalizing e with
  | nil => cases h; rfl
  | cons c cs ih =>
    by_cases hc : c ∈ e
    · rw [scanPalette_cons_of_mem none cs hc] at h
      exact ih h
    · rw [scanPalette_none_cons cs hc] at h
      have := ih h
      rw [List.length_append] at this
      omega

/-- A capacity turns the scan away when it would hold more entries (R197). -/
theorem scanPalette_capacity {e e' cs : List Rgba} {n : Nat} (h : scanPalette none e cs = some e') (hn : e.length ≤ n) :
    scanPalette (some n) e cs = if e'.length ≤ n then some e' else none := by
  induction cs generalizing e with
  | nil => cases h; exact (if_pos hn).symm
  | cons c cs ih =>
    by_cases hc : c ∈ e
    · rw [scanPalette_cons_of_mem none cs hc] at h
      rw [scanPalette_cons_of_mem (some n) cs hc, ih h hn]
    · rw [scanPalette_none_cons cs hc] at h
      have hle := scanPalette_length_le h
      rw [List.length_append, List.length_singleton] at hle
      rw [scanPalette_some_cons n cs hc]
      split
      · rw [if_neg (by omega)]
      · exact ih h (by rw [List.length_append, List.length_singleton]; omega)

/-- Settles O23: the scan keeps the first appearances of the colours it has passed. -/
theorem paletteScanFirstAppearance : Obligations.PaletteScanFirstAppearance := by
  refine ⟨fun s => ⟨allPixels_length s, fun x y => allPixels_getElem? s⟩, fun cs => ?_⟩
  obtain ⟨e, he, hfirst⟩ := firstAppearances_nil.scan cs
  exact ⟨e, he, hfirst.nodup, hfirst.mem_iff, hfirst.order, fun n => scanPalette_capacity he (Nat.zero_le n)⟩

/-! ### Depth and limit (R199, R200) -/

theorem paletteLimit_eq (c : Cfg) (bd : Byte) : paletteLimit c bd =
    if c.maxPalSet = 1 then min (min 256 (2 ^ bd.toNat)) c.maxPal.toNat else min 256 (2 ^ bd.toNat) := rfl

theorem paletteLimit_le (c : Cfg) (bd : Byte) : paletteLimit c bd ≤ 256 := by
  rw [paletteLimit_eq]
  split <;> omega

/-- The limit is 0 only under MAX_PAL = 0, which START turns away (44_control R224 check 11). -/
theorem paletteLimit_pos {c : Cfg} (bd : Byte) (h : ¬(c.maxPalSet = 1 ∧ c.maxPal = 0)) : 1 ≤ paletteLimit c bd := by
  have hpow : 1 ≤ 2 ^ bd.toNat := Nat.one_le_two_pow
  rw [paletteLimit_eq]
  split
  · next hset =>
    have hmax : c.maxPal.toNat ≠ 0 := fun h0 => h ⟨hset, BitVec.eq_of_toNat_eq h0⟩
    omega
  · omega

/-- Settles O24: the clauses are the branches of the two definitions. -/
theorem depthAndLimit : Obligations.DepthAndLimit := by
  have depth_zero (n : Nat) : effectiveDepth 0 n = if n ≤ 2 then 1 else if n ≤ 4 then 2 else if n ≤ 16 then 4 else 8 := rfl
  refine ⟨fun bd n hbd => if_pos hbd, fun n h => ?_, fun n h h' => ?_, fun n h h' => ?_, fun n h => ?_, fun c bd =>
    ⟨fun hset => ?_, fun hset => by rw [paletteLimit_eq, if_pos hset], paletteLimit_pos bd⟩⟩
  · rw [depth_zero, if_pos h]
  · rw [depth_zero, if_neg (by omega), if_pos h']
  · rw [depth_zero, if_neg (by omega), if_neg (by omega), if_pos h']
  · rw [depth_zero, if_neg (by omega), if_neg (by omega), if_neg (by omega)]
  · rw [paletteLimit_eq, hset, if_neg (by decide)]

/-! ### The closest pair (R202, R203) -/

theorem mem_indexPairs {n : Nat} {p : Nat × Nat} : p ∈ indexPairs n ↔ p.1 < p.2 ∧ p.2 < n := by
  obtain ⟨i, j⟩ := p
  simp only [indexPairs, List.mem_flatMap, List.mem_map, List.mem_filter, List.mem_range, decide_eq_true_eq, Prod.mk.injEq]
  constructor
  · rintro ⟨i', -, j', ⟨hj, hlt⟩, rfl, rfl⟩
    exact ⟨hlt, hj⟩
  · rintro ⟨hlt, hj⟩
    exact ⟨i, by omega, j, ⟨hj, hlt⟩, rfl, rfl⟩

/-- The pairs come in lexicographic order. -/
theorem indexPairs_pairwise (n : Nat) : (indexPairs n).Pairwise fun p q => toLex p ≤ toLex q := by
  refine List.pairwise_flatMap.mpr ⟨fun i _ => ?_, List.pairwise_lt_range.imp fun {i i'} hlt p hp q hq => ?_⟩
  · refine List.pairwise_map.mpr ((List.pairwise_lt_range.filter _).imp fun hlt => ?_)
    exact Prod.Lex.toLex_le_toLex.mpr (.inr ⟨rfl, hlt.le⟩)
  · obtain ⟨j, -, rfl⟩ := List.mem_map.mp hp
    obtain ⟨j', -, rfl⟩ := List.mem_map.mp hq
    exact Prod.Lex.toLex_le_toLex.mpr (.inl hlt)

/-- `r` is a pair of `ps` of least distance, and no pair of `ps` at that distance comes before it. -/
structure IsClosest (e : List Rgba) (ps : List (Nat × Nat)) (r : Nat × Nat) : Prop where
  mem : r ∈ ps
  least : ∀ q ∈ ps, pairDist e r ≤ pairDist e q
  first : ∀ q ∈ ps, pairDist e q = pairDist e r → toLex r ≤ toLex q

/-- Over pairs in lexicographic order the search answers the first of least distance: of the best so far and the next pair it keeps
the one that belongs before the other. -/
theorem isClosest_closestOf (e : List Rgba) (best : Nat × Nat) {ps : List (Nat × Nat)}
    (h : (best :: ps).Pairwise fun p q => toLex p ≤ toLex q) : IsClosest e (best :: ps) (closestOf e best ps) := by
  induction ps generalizing best with
  | nil => exact ⟨by simp [closestOf], by simp [closestOf], by simp [closestOf]⟩
  | cons p ps ih =>
    obtain ⟨hbest, hrest⟩ := List.pairwise_cons.mp h
    rw [closestOf]
    split
    · next hlt =>
      have hr := ih p hrest
      have hbest_far := (hr.least p List.mem_cons_self).trans_lt hlt
      refine ⟨List.mem_cons_of_mem _ hr.mem, List.forall_mem_cons.mpr ⟨hbest_far.le, hr.least⟩,
        List.forall_mem_cons.mpr ⟨fun heq => absurd heq hbest_far.ne', hr.first⟩⟩
    · next hnlt =>
      obtain ⟨-, hps⟩ := List.pairwise_cons.mp hrest
      have hr := ih best (List.pairwise_cons.mpr ⟨fun q hq => hbest q (List.mem_cons_of_mem _ hq), hps⟩)
      have hmem : closestOf e best ps ∈ best :: p :: ps := by
        rcases List.mem_cons.mp hr.mem with hr | hr <;> simp [hr]
      have hleast_best := hr.least best List.mem_cons_self
      refine ⟨hmem, ?_, ?_⟩
      · simp only [List.forall_mem_cons]
        exact ⟨hleast_best, by omega, fun q hq => hr.least q (List.mem_cons_of_mem _ hq)⟩
      · simp only [List.forall_mem_cons]
        refine ⟨hr.first best List.mem_cons_self, fun heq => ?_, fun q hq => hr.first q (List.mem_cons_of_mem _ hq)⟩
        exact (hr.first best List.mem_cons_self (by omega)).trans (hbest p List.mem_cons_self)

theorem isClosest_closestPair {e : List Rgba} (h : 2 ≤ e.length) : IsClosest e (indexPairs e.length) (closestPair e) := by
  have hfirst : (0, 1) ∈ indexPairs e.length := mem_indexPairs.mpr ⟨by decide, by omega⟩
  have hclosest : IsClosest e ((0, 1) :: indexPairs e.length) (closestPair e) := by
    refine isClosest_closestOf e (0, 1) (List.pairwise_cons.mpr ⟨fun q hq => ?_, indexPairs_pairwise _⟩)
    obtain ⟨hlt, -⟩ := mem_indexPairs.mp hq
    exact Prod.Lex.toLex_le_toLex.mpr (by simp only; omega)
  have hsub {q : Nat × Nat} (hq : q ∈ indexPairs e.length) := List.mem_cons_of_mem (0, 1) hq
  refine ⟨?_, fun q hq => hclosest.least q (hsub hq), fun q hq => hclosest.first q (hsub hq)⟩
  rcases List.mem_cons.mp hclosest.mem with hr | hr
  · rwa [hr]
  · exact hr

/-- The closest pair is a pair of positions of the palette. -/
theorem closestPair_lt {e : List Rgba} (h : 2 ≤ e.length) : (closestPair e).1 < (closestPair e).2 ∧ (closestPair e).2 < e.length :=
  mem_indexPairs.mp (isClosest_closestPair h).mem

/-- The squared distance over the integers (R203). -/
theorem dist2_cast (u v : Rgba) : (dist2 u v : Int) =
    ((u.r.toNat : Int) - v.r.toNat) ^ 2 + ((u.g.toNat : Int) - v.g.toNat) ^ 2 + ((u.b.toNat : Int) - v.b.toNat) ^ 2 +
      ((u.a.toNat : Int) - v.a.toNat) ^ 2 := by
  simp only [dist2, sqDiff, Nat.cast_add, Nat.cast_pow, Int.natCast_natAbs, sq_abs]

/-- Settles O25: the search goes over the pairs in lexicographic order. -/
theorem closestPairLexicographic : Obligations.ClosestPairLexicographic := by
  intro e he p sq dist
  have hdist (i j : Nat) : dist i j = pairDist e (i, j) := (dist2_cast ..).symm
  have hp : IsClosest e (indexPairs e.length) p := isClosest_closestPair he
  obtain ⟨hlt, hlen⟩ := closestPair_lt he
  refine ⟨hlt, hlen, fun i j hij hj => ?_⟩
  have hmem : (i, j) ∈ indexPairs e.length := mem_indexPairs.mpr ⟨hij, hj⟩
  rw [hdist, hdist, Nat.cast_le, Nat.cast_inj]
  exact ⟨hp.least _ hmem, fun heq => Prod.Lex.toLex_le_toLex.mp (hp.first _ hmem heq)⟩

end Sys2Proof.Machine
end

section
/-! PROOFS. The palette reduction of 43_pack R202: what one pass drops and re-points, and what any number of passes keeps. -/

namespace Sys2Proof.Machine

/-! ### One pass -/

/-- Where an earlier mapping leads after `dropped` has been merged into `kept`. -/
def repoint (kept dropped v : Rgba) : Rgba := if v = dropped then kept else v

/-- A pass, with the colours at the closest pair named. -/
theorem mergeClosest_eq {e : List Rgba} {kept dropped : Rgba} (m : List (Rgba × Rgba))
    (hkept : e[(closestPair e).1]? = some kept) (hdropped : e[(closestPair e).2]? = some dropped) :
    mergeClosest e m = (e.eraseIdx (closestPair e).2,
      rmapSet dropped kept (m.map fun x => (x.1, repoint kept dropped x.2))) := by
  have hpoint (x : Rgba × Rgba) : (if x.2 = dropped then (x.1, kept) else x) = (x.1, repoint kept dropped x.2) := by
    unfold repoint
    split <;> rfl
  simp only [mergeClosest, List.getD_eq_getElem?_getD, hkept, hdropped, Option.getD_some, hpoint]

/-- What RMAP says after a pass. -/
theorem rmapLookup_rmapSet_repoint (c kept dropped : Rgba) (m : List (Rgba × Rgba)) :
    rmapLookup c (rmapSet dropped kept (m.map fun x => (x.1, repoint kept dropped x.2))) =
      if c = dropped then some kept else (rmapLookup c m).map (repoint kept dropped) := by
  split
  · next hc => rw [hc, rmapLookup_rmapSet_same]
  · next hc => rw [rmapLookup_rmapSet_other hc, rmapLookup_map]

theorem mem_rmapSet {k v : Rgba} {m : List (Rgba × Rgba)} {x : Rgba × Rgba} (h : x ∈ rmapSet k v m) : x ∈ m ∨ x = (k, v) := by
  rw [rmapSet, List.mem_append, List.mem_singleton] at h
  exact h.imp_left List.mem_of_mem_filter

/-- A pass over a palette of distinct colours drops one colour and keeps the other of its pair. -/
theorem exists_mergeClosest_eq {e : List Rgba} (hn : e.Nodup) (hlen : 2 ≤ e.length) (m : List (Rgba × Rgba)) :
    ∃ kept dropped, kept ∈ e ∧ dropped ∈ e ∧ kept ≠ dropped ∧
      mergeClosest e m = (e.erase dropped, rmapSet dropped kept (m.map fun x => (x.1, repoint kept dropped x.2))) := by
  obtain ⟨hlt, hlt'⟩ := closestPair_lt hlen
  refine ⟨e[(closestPair e).1], e[(closestPair e).2], List.getElem_mem _, List.getElem_mem _, fun heq => ?_, ?_⟩
  · exact hlt.ne ((hn.getElem_inj_iff).mp heq)
  · rw [hn.erase_getElem]
    exact mergeClosest_eq m (List.getElem?_eq_getElem _) (List.getElem?_eq_getElem _)

/-! ### Any number of passes -/

/-- The scratch palette and RMAP that passes over the distinct colours `e` can leave: the entries keep their order, every colour of
`e` is an entry or is mapped to one, and no entry is a key. -/
structure ReducedFrom (e : List Rgba) (em : List Rgba × List (Rgba × Rgba)) : Prop where
  nodup : em.1.Nodup
  sublist : em.1.Sublist e
  covers : ∀ c ∈ e, c ∈ em.1 ∨ ∃ kept, rmapLookup c em.2 = some kept ∧ kept ∈ em.1
  maps : ∀ m ∈ em.2, m.1 ∉ em.1 ∧ m.2 ∈ em.1

theorem reducedFrom_self {e : List Rgba} (hn : e.Nodup) : ReducedFrom e (e, []) :=
  ⟨hn, .refl e, fun _ hc => .inl hc, fun _ hm => absurd hm List.not_mem_nil⟩

/-- A pass keeps the shape: what was mapped to the dropped colour, and that colour, are mapped to the kept one. -/
theorem ReducedFrom.merge {e : List Rgba} {em : List Rgba × List (Rgba × Rgba)} (h : ReducedFrom e em) (hlen : 2 ≤ em.1.length) :
    ReducedFrom e (mergeClosest em.1 em.2) := by
  obtain ⟨kept, dropped, hkept, hdropped, hne, heq⟩ := exists_mergeClosest_eq h.nodup hlen em.2
  have mem_iff (c : Rgba) : c ∈ em.1.erase dropped ↔ c ≠ dropped ∧ c ∈ em.1 := h.nodup.mem_erase_iff
  have hkept' : kept ∈ em.1.erase dropped := (mem_iff kept).mpr ⟨hne, hkept⟩
  have repoint_mem {v : Rgba} (hv : v ∈ em.1) : repoint kept dropped v ∈ em.1.erase dropped := by
    unfold repoint
    split
    · exact hkept'
    · next hvd => exact (mem_iff v).mpr ⟨hvd, hv⟩
  rw [heq]
  refine ⟨h.nodup.erase dropped, List.erase_sublist.trans h.sublist, fun c hc => ?_, fun x hx => ?_⟩
  · rw [rmapLookup_rmapSet_repoint]
    split
    · exact .inr ⟨kept, rfl, hkept'⟩
    · next hcd =>
      rcases h.covers c hc with hc | ⟨v, hlook, hv⟩
      · exact .inl ((mem_iff c).mpr ⟨hcd, hc⟩)
      · exact .inr ⟨repoint kept dropped v, by rw [hlook]; rfl, repoint_mem hv⟩
  · rcases mem_rmapSet hx with hx | rfl
    · obtain ⟨y, hy, rfl⟩ := List.mem_map.mp hx
      obtain ⟨hkey, hval⟩ := h.maps y hy
      exact ⟨fun hk => hkey ((mem_iff y.1).mp hk).2, repoint_mem hval⟩
    · exact ⟨fun hk => ((mem_iff dropped).mp hk).1 rfl, hkept'⟩

/-- A pass over two entries or more drops one. -/
theorem mergeClosest_length {e : List Rgba} (hlen : 2 ≤ e.length) (m : List (Rgba × Rgba)) :
    (mergeClosest e m).1.length + 1 = e.length := by
  obtain ⟨-, hlt⟩ := closestPair_lt hlen
  have : (mergeClosest e m).1.length = e.length - 1 := List.length_eraseIdx_of_lt hlt
  omega

/-- So many passes drop so many entries, as long as one is left, and keep the shape. -/
theorem ReducedFrom.reduce {e : List Rgba} {em : List Rgba × List (Rgba × Rgba)} (h : ReducedFrom e em) {n : Nat}
    (hn : n < em.1.length) : ReducedFrom e (reducePalette n em) ∧ (reducePalette n em).1.length + n = em.1.length := by
  induction n generalizing em with
  | zero => exact ⟨h, rfl⟩
  | succ n ih =>
    have hlen := mergeClosest_length (e := em.1) (by omega) em.2
    obtain ⟨hred, hcount⟩ := ih (h.merge (by omega)) (by omega)
    exact ⟨hred, by rw [reducePalette]; omega⟩

/-- Reduction to a limit, no pass where the palette is within it. -/
theorem reducedFrom_reducePalette {e : List Rgba} (hn : e.Nodup) {limit : Nat} (hlimit : 1 ≤ limit) :
    ReducedFrom e (reducePalette (e.length - limit) (e, [])) ∧
      (reducePalette (e.length - limit) (e, [])).1.length = min e.length limit := by
  rcases Nat.lt_or_ge limit e.length with hlt | hle
  · obtain ⟨hred, hcount⟩ := (reducedFrom_self hn).reduce (n := e.length - limit) (by simp only; omega)
    exact ⟨hred, by simp only at hcount; omega⟩
  · rw [Nat.sub_eq_zero_of_le hle, Nat.min_eq_left hle]
    exact ⟨reducedFrom_self hn, rfl⟩

/-- Settles O26: a pass drops one entry and keeps the shape, and `len(EPAL) - limit` of them leave `limit` entries. -/
theorem reductionMapsDropped : Obligations.ReductionMapsDropped := by
  refine ⟨fun _ => rfl, fun _ _ _ => rfl, fun e m kept dropped hkept hdropped => ?_, fun e limit hn hlimit hle => ?_⟩
  · rw [mergeClosest_eq m hkept hdropped]
    exact ⟨rfl, fun c => rmapLookup_rmapSet_repoint c kept dropped m⟩
  · obtain ⟨hred, hlen⟩ := reducedFrom_reducePalette hn hlimit
    exact ⟨hlen.trans (Nat.min_eq_right hle), hred.sublist, hred.covers, hred.maps⟩

end Sys2Proof.Machine
end

section
/-! PROOFS. The indexed packer of 43_pack: the representative of a colour (R204), the pixel pass (R193, R205), the palette output (R206),
and the decode of a packed row (R207). -/

namespace Sys2Proof.Machine

/-! ### The representative of a colour (R204) -/

theorem indexOf_eq_idxOf? (c : Rgba) (e : List Rgba) : indexOf c e = e.idxOf? c := by
  induction e with
  | nil => rfl
  | cons x xs ih => simp only [indexOf, ih, List.idxOf?_cons, beq_iff_eq]

/-- `index_of` answers the first position of the colour. -/
theorem indexOf_eq_some_iff {c : Rgba} {e : List Rgba} {k : Nat} :
    indexOf c e = some k ↔ e[k]? = some c ∧ ∀ j, j < k → e[j]? ≠ some c := by
  rw [indexOf_eq_idxOf?, List.idxOf?_eq_some_iff]
  constructor
  · rintro ⟨hk, hc, hfirst⟩
    refine ⟨List.getElem?_eq_some_iff.mpr ⟨hk, hc⟩, fun j hj hjc => hfirst j hj ?_⟩
    exact (List.getElem?_eq_some_iff.mp hjc).2
  · rintro ⟨hk, hfirst⟩
    obtain ⟨hlt, hc⟩ := List.getElem?_eq_some_iff.mp hk
    exact ⟨hlt, hc, fun j hj hjc => hfirst j hj (List.getElem?_eq_some_iff.mpr ⟨hj.trans hlt, hjc⟩)⟩

theorem indexOf_eq_none_iff {c : Rgba} {e : List Rgba} : indexOf c e = none ↔ c ∉ e := by
  rw [indexOf_eq_idxOf?, List.idxOf?_eq_none_iff]

theorem exists_indexOf_of_mem {c : Rgba} {e : List Rgba} (h : c ∈ e) : ∃ k, indexOf c e = some k := by
  rw [← Option.isSome_iff_exists, indexOf_eq_idxOf?, List.isSome_idxOf?]
  exact h

theorem indexFor_of_mem {c : Rgba} {e : List Rgba} (m : List (Rgba × Rgba)) (h : c ∈ e) : indexFor e m c = indexOf c e := by
  obtain ⟨k, hk⟩ := exists_indexOf_of_mem h
  rw [indexFor, hk]

theorem indexFor_of_notMem {c : Rgba} {e : List Rgba} (m : List (Rgba × Rgba)) (h : c ∉ e) :
    indexFor e m c = (rmapLookup c m).bind fun kept => indexOf kept e := by
  rw [indexFor, indexOf_eq_none_iff.mpr h]

/-- The entry at the representative's position: the colour's own, or that of the colour RMAP sends it to. -/
theorem indexFor_eq_some_iff {c : Rgba} {e : List Rgba} {m : List (Rgba × Rgba)} {k : Nat} :
    indexFor e m c = some k ↔
      indexOf c e = some k ∨ (c ∉ e ∧ ∃ kept, rmapLookup c m = some kept ∧ indexOf kept e = some k) := by
  by_cases hc : c ∈ e
  · simp [indexFor_of_mem m hc, hc]
  · simp [indexFor_of_notMem m hc, hc, indexOf_eq_none_iff.mpr hc, Option.bind_eq_some_iff]

/-- A representative is a position of the palette. -/
theorem indexFor_lt_length {c : Rgba} {e : List Rgba} {m : List (Rgba × Rgba)} {k : Nat} (h : indexFor e m c = some k) :
    k < e.length := by
  have indexOf_lt {d : Rgba} (hd : indexOf d e = some k) : k < e.length :=
    (List.getElem?_eq_some_iff.mp (indexOf_eq_some_iff.mp hd).1).1
  rcases indexFor_eq_some_iff.mp h with hd | ⟨-, kept, -, hd⟩
  · exact indexOf_lt hd
  · exact indexOf_lt hd

/-! ### The pixel pass (R193, R205) -/

theorem firstMiss_eq_none_iff {s : State} : firstMiss s = none ↔ ∀ x, x < s.cfg.width.toNat → pixelIndex s x ≠ none := by
  simp [firstMiss, List.find?_eq_none]

/-- The bytes RAW takes: the representatives of the pixels of row Y. -/
def indexRow (s : State) : List Byte := (List.range s.cfg.width.toNat).map fun x => BitVec.ofNat 8 ((pixelIndex s x).getD 0)

@[simp] theorem indexRow_length (s : State) : (indexRow s).length = s.cfg.width.toNat := by
  simp [indexRow]

theorem indexRow_getD {s : State} {x k : Nat} (hx : x < s.cfg.width.toNat) (hk : pixelIndex s x = some k) :
    (indexRow s).getD x 0 = BitVec.ofNat 8 k := by
  simp [indexRow, List.getD_eq_getElem?_getD, hx, hk]

/-- Where every pixel of row Y has a representative, RAW takes the representatives. -/
theorem execPackIdx8_of_represented {s : State} (bd : Byte) (h : ∀ x, x < s.cfg.width.toNat → pixelIndex s x ≠ none) :
    execPackIdx8 bd s = .next (s.setCur (indexRow s)) := by
  rw [execPackIdx8, firstMiss_eq_none_iff.mpr h]
  rfl

/-- The first pixel of row Y without a representative raises PaletteMiss. -/
theorem execPackIdx8_of_first_miss {s : State} (bd : Byte) {x : Nat} (hx : x < s.cfg.width.toNat) (hmiss : pixelIndex s x = none)
    (hfirst : ∀ x', x' < x → pixelIndex s x' ≠ none) :
    execPackIdx8 bd s = .next (s.raise .paletteMiss s.y (BitVec.ofNat 32 (s.y.toNat * s.cfg.width.toNat + x))) := by
  have hsome : firstMiss s = some x := by
    refine List.find?_range_eq_some.mpr ⟨by simp [hmiss], List.mem_range.mpr hx, fun x' hx' => ?_⟩
    simpa [Option.isSome_iff_ne_none] using hfirst x' hx'
  rw [execPackIdx8, hsome]

/-- Settles O22: what represents a pixel is what `index_for` answers for it. -/
theorem packIndexed : Obligations.PackIndexed := by
  refine ⟨fun bd hbd => ?_, fun s bd => ?_⟩
  · exact hasWord_encode (i := .packIdx8 bd) (List.contains_iff_mem.mpr hbd)
  intro first pixel represents
  have hrep (x k : Nat) : represents x k ↔ pixelIndex s x = some k := by
    simp only [pixelIndex, indexFor_eq_some_iff, indexOf_eq_some_iff]
    rfl
  simp only [hrep]
  refine ⟨fun k hk => ⟨_, execPackIdx8_of_represented bd fun x hx => ?_, rawFilled_setCur (indexRow_length s) fun x hx => ?_⟩,
    fun x hx hmiss hfirst => ?_⟩
  · simp [(hk x hx).2]
  · exact indexRow_getD hx (hk x hx).2
  · have hnone : pixelIndex s x = none := Option.eq_none_iff_forall_ne_some.mpr hmiss
    have hinfo (n : Nat) : BitVec.ofNat 32 (n % 2 ^ 32) = BitVec.ofNat 32 n := BitVec.eq_of_toNat_eq (by simp)
    rw [hinfo]
    refine execPackIdx8_of_first_miss bd hx hnone fun x' hx' hn => ?_
    obtain ⟨k, hk⟩ := hfirst x' hx'
    simp [hn] at hk

/-! ### The palette output (R206) -/

theorem palEntry_writeList_outside (m : Store Rgb) (k : Nat) (cs : List Rgb) {j : Nat} (h : j < k ∨ k + cs.length ≤ j) :
    palEntry (m.writeList k cs) j = palEntry m j := by
  rw [palEntry, Store.get?_writeList_outside m k cs h, Store.writeList_tag, palEntry]

theorem palEntry_writeList_inside (m : Store Rgb) (k : Nat) {cs : List Rgb} {i : Nat} {c : Rgb} (h : cs[i]? = some c) :
    palEntry (m.writeList k cs) (k + i) = c := by
  have hlt := (List.getElem?_eq_some_iff.mp h).1
  rw [palEntry, Store.get?_writeList_inside m k cs hlt, h]

/-- The entries of EPAL, in PAL and APAL. -/
theorem outputPalette_entry {s : State} {k : Nat} {c : Rgba} (h : s.epal[k]? = some c) :
    palEntry (outputPalette s).pal k = ⟨c.r, c.g, c.b⟩ ∧ Memory.byte (outputPalette s).apal k = c.a := by
  have hlt := (List.getElem?_eq_some_iff.mp h).1
  constructor
  · rw [← Nat.zero_add k]
    exact palEntry_writeList_inside s.pal 0 (by simp [h])
  · rw [← Nat.zero_add k]
    refine (Memory.byte_writeList_inside s.apal 0 _ (by simpa using hlt)).trans ?_
    simp [List.getD_eq_getElem?_getD, h]

/-- The entries beyond it stay. -/
theorem outputPalette_entry_of_length_le {s : State} {k : Nat} (h : s.epal.length ≤ k) :
    palEntry (outputPalette s).pal k = palEntry s.pal k ∧
      Memory.byte (outputPalette s).apal k = Memory.byte s.apal k :=
  ⟨palEntry_writeList_outside s.pal 0 _ (.inr (by simpa using h)),
    Memory.byte_writeList_outside s.apal 0 _ (.inr (by simpa using h))⟩

/-- PAL_LEN and APAL_LEN take any length up to the limit of R200. -/
theorem outputPalette_lengths {s : State} (h : s.epal.length ≤ 256) :
    (outputPalette s).cfg.palLen.toNat = s.epal.length ∧ (outputPalette s).cfg.apalLen.toNat = s.epal.length := by
  have hmod : (BitVec.ofNat 9 s.epal.length).toNat = s.epal.length := by
    rw [BitVec.toNat_ofNat]
    omega
  exact ⟨hmod, hmod⟩

/-! ### The decode of a packed row (R207) -/

/-- The pixel of an index under the palette output is the entry at that position. -/
theorem palPixel_outputPalette {s : State} {k : Nat} {c : Rgba} (hlen : s.epal.length ≤ 256) (h : s.epal[k]? = some c) :
    palPixel (outputPalette s) (BitVec.ofNat 8 k) = c := by
  have hlt := (List.getElem?_eq_some_iff.mp h).1
  have hk : (BitVec.ofNat 8 k).toNat = k := by
    rw [BitVec.toNat_ofNat]
    omega
  obtain ⟨hpal, hapal⟩ := outputPalette_entry h
  obtain ⟨-, hapalLen⟩ := outputPalette_lengths hlen
  have hkey : (outputPalette s).cfg.trnsKind = 3 := rfl
  rw [palPixel, hk, hpal, hapal, if_pos ⟨hkey, by omega⟩]

/-- The entry at the representative of a colour: the colour itself where EPAL holds it, else the colour RMAP sends it to. -/
theorem getElem?_of_indexFor {c d : Rgba} {e : List Rgba} {m : List (Rgba × Rgba)} {k : Nat} (h : indexFor e m c = some k)
    (hd : e[k]? = some d) : (c ∈ e → d = c) ∧ (c ∉ e → rmapLookup c m = some d) := by
  rcases indexFor_eq_some_iff.mp h with hk | ⟨hc, kept, hlook, hk⟩
  · obtain rfl : c = d := by simpa [hd] using (indexOf_eq_some_iff.mp hk).1.symm
    exact ⟨fun _ => rfl, fun hc => absurd (List.mem_of_getElem? hd) hc⟩
  · obtain rfl : kept = d := by simpa [hd] using (indexOf_eq_some_iff.mp hk).1.symm
    exact ⟨fun hc' => absurd hc' hc, fun _ => hlook⟩

/-- Settles O27: PACK puts each pixel's representative into RAW, and UNPACK.P8 reads the palette entry at that position. -/
theorem indexedRowDecodes : Obligations.IndexedRowDecodes := by
  intro s bd hlen hrep
  let t := (outputPalette s).setCur (indexRow (outputPalette s))
  have hpack : exec (.packIdx8 bd) (outputPalette s) = .next t := execPackIdx8_of_represented bd hrep
  have entry (x : Nat) (hx : x < s.cfg.width.toNat) : ∃ k d, indexFor s.epal s.rmap (readPixel s x s.y.toNat) = some k ∧
      s.epal[k]? = some d ∧ t.cur.byte x = BitVec.ofNat 8 k := by
    obtain ⟨k, hk⟩ := Option.ne_none_iff_exists'.mp (hrep x hx)
    refine ⟨k, _, hk, List.getElem?_eq_getElem (indexFor_lt_length hk), ?_⟩
    exact (RowBuf.byte_of_lt _ (hx.trans_eq (indexRow_length _).symm)).trans (indexRow_getD (s := outputPalette s) hx hk)
  have hbelow (x : Nat) (hx : x < t.cfg.width.toNat) : (t.cur.byte x).toNat < t.cfg.palLen.toNat := by
    obtain ⟨k, d, hk, -, hbyte⟩ := entry x hx
    have hlt := indexFor_lt_length hk
    have hpal : t.cfg.palLen.toNat = s.epal.length := (outputPalette_lengths hlen).1
    rw [hbyte, hpal, BitVec.toNat_ofNat]
    omega
  have hunpack : exec .unpackP8 t = .next (unpackRow t fun x => palPixel t (t.cur.byte x)) :=
    congrArg Host.Outcome.next (unpackIndexed_of_lt hbelow)
  refine ⟨t, _, hpack, hunpack, fun x hx => ?_⟩
  obtain ⟨k, d, hk, hd, hbyte⟩ := entry x hx
  have hpixel : pixelAt (unpackRow t fun x => palPixel t (t.cur.byte x)) x s.y.toNat = d :=
    calc pixelAt (unpackRow t fun x => palPixel t (t.cur.byte x)) x s.y.toNat
        = palPixel t (t.cur.byte x) := unpackRow_pixelAt t _ hx
      _ = palPixel (outputPalette s) (BitVec.ofNat 8 k) := congrArg (palPixel t) hbyte
      _ = d := palPixel_outputPalette hlen hd
  rw [hpixel]
  exact getElem?_of_indexFor hk hd

end Sys2Proof.Machine
end

section
/-! PROOFS. The prelude of PACK.IDX8 (43_pack R195) in an accepted START, and that a run of PACK.IDX8 never raises PaletteMiss (R205). -/

namespace Sys2Proof.Machine

/-! ### The prelude (R195, R201, R202, R206) -/

/-- The state the prelude leaves where it does not raise: of the scanned colours `e` the palette keeps `limit`, and is put out. -/
def palettedState (s : State) (e : List Rgba) (limit : Nat) : State :=
  outputPalette { scannedState s e with
    epal := (reducePalette (e.length - limit) (e, [])).1
    rmap := (reducePalette (e.length - limit) (e, [])).2 }

/-- A palette within the limit is reduced by no pass (R201, R202). -/
theorem limitPalette_scannedState {s : State} {e : List Rgba} {limit : Nat} (h : e.length ≤ limit ∨ s.cfg.reduce = 1) :
    limitPalette (scannedState s e) limit = palettedState s e limit := by
  rcases limitPalette_cases (scannedState s e) limit with ⟨hle, heq⟩ | ⟨-, -, heq⟩ | ⟨hlt, hreduce, -⟩
  · have hle : e.length ≤ limit := hle
    rw [heq, palettedState, Nat.sub_eq_zero_of_le hle]
    rfl
  · exact heq
  · rcases h with hle | hr
    · exact absurd hlt hle.not_gt
    · exact absurd hr hreduce

/-- Without REDUCE a palette over the limit is BadPalette (R201). -/
theorem limitPalette_scannedState_of_lt {s : State} {e : List Rgba} {limit : Nat} (hlt : limit < e.length)
    (hreduce : s.cfg.reduce ≠ 1) : limitPalette (scannedState s e) limit = (scannedState s e).raise .badPalette 0 0 :=
  (if_neg hlt.not_ge).trans (if_neg hreduce)

/-- What an accepted PACK.IDX8 START answers, with the default capacity (R197). -/
theorem acceptStart_indexed {s : State} {e : List Rgba} (hdir : s.cfg.direction = .encode) (hct : s.cfg.colorType = 3)
    (hscan : scanPalette none [] (allPixels s) = some e) :
    acceptStart s = .next (limitPalette (scannedState s e) (paletteLimit s.cfg (effectiveDepth s.cfg.bitDepth e.length))) := by
  have hscan' : scanPalette Config.epalCap [] (allPixels (initRun s)) = some e := hscan
  rw [acceptStart, if_pos ⟨hdir, hct⟩, idx8Prelude, hscan']
  rfl

/-- The scratch palette the prelude leaves. -/
theorem palettedState_reducedFrom (s : State) {e : List Rgba} (hn : e.Nodup) {limit : Nat} (hlimit : 1 ≤ limit) :
    ReducedFrom e ((palettedState s e limit).epal, (palettedState s e limit).rmap) ∧
      (palettedState s e limit).epal.length ≤ limit := by
  obtain ⟨hred, hlen⟩ := reducedFrom_reducePalette hn hlimit
  exact ⟨hred, hlen.trans_le (Nat.min_le_right ..)⟩

/-! ### START's checks, by the table of 44_control R224 -/

theorem firstFailing_eq_none_iff {l : List (Bool × ErrKind)} : firstFailing l = none ↔ ∀ x ∈ l, x.1 = false := by
  induction l with
  | nil => simp [firstFailing]
  | cons x l ih =>
    rw [firstFailing, List.forall_mem_cons]
    cases x.1 <;> simp [ih]

/-- The pairs check 9 lets pass name a PACK operation (30_encoding R101). -/
theorem decodePack_ok_of_mem {bd ct : Byte}
    (h : (ct.toNat, bd.toNat) ∈ [(6, 8), (2, 8), (3, 0), (3, 1), (3, 2), (3, 4), (3, 8)]) :
    ∃ i, decodePack bd ct = .ok i := by
  simp only [List.mem_cons, List.not_mem_nil, or_false, Prod.mk.injEq] at h
  rcases h with ⟨hct, hbd⟩ | ⟨hct, hbd⟩ | ⟨hct, hbd⟩ | ⟨hct, hbd⟩ | ⟨hct, hbd⟩ | ⟨hct, hbd⟩ | ⟨hct, hbd⟩ <;>
    rw [byte_eq_ofNat hct, byte_eq_ofNat hbd] <;> exact ⟨_, rfl⟩

/-- In the encode direction a configuration no row of the table turns away passes START's checks. -/
theorem startCheck_eq_none_of_startTable {c : Cfg} (hdir : c.dir = 1) (h : firstFailing (startTable c) = none) :
    startCheck c = none := by
  simp only [firstFailing_eq_none_iff, startTable, List.forall_mem_cons, hdir] at h
  obtain ⟨hmethod, hinterlace, hdim, -, -, -, -, -, hpair, hfilter, hmax, -⟩ := h
  simp only [beq_self_eq_true, Bool.true_and, Bool.not_eq_false', List.contains_iff_mem] at hpair
  simp only [Bool.or_eq_false_iff, beq_eq_false_iff_ne, decide_eq_false_iff_not] at hdim
  obtain ⟨i, hi⟩ := decodePack_ok_of_mem hpair
  refine (startCheck_encode_eq_none_iff (if_pos hdir)).mpr ⟨⟨by simpa using hmethod, by simpa using hinterlace, ?_, ?_⟩, ?_⟩
  · exact decide_eq_true (by omega)
  · exact decide_eq_true (by omega)
  · rw [checkEncode, decode_mode_encode, hi]
    refine (if_neg ?_).trans (if_neg ?_)
    · rintro ⟨hct, hmode, hbad⟩
      have hct : c.colorType.toNat = 6 ∨ c.colorType.toNat = 2 := hct.imp (congrArg BitVec.toNat) (congrArg BitVec.toNat)
      have hgood : c.fixedFilterValid ≠ 0 ∧ c.fixedFilter.toNat ≤ 4 := by
        rcases hct with hct | hct <;> simpa [hct, hmode] using hfilter
      exact hbad.elim hgood.1 hgood.2.not_gt
    · rintro ⟨hct, hset, hzero⟩
      have hct : c.colorType.toNat = 3 := congrArg BitVec.toNat hct
      simp [hct, hset, hzero] at hmax

/-- An Indexed encode configuration that passes the checks has a limit of at least 1 (check 11). -/
theorem paletteLimit_pos_of_startCheck {c : Cfg} (bd : Byte) (hdir : c.direction = .encode) (hct : c.colorType = 3)
    (h : startCheck c = none) : 1 ≤ paletteLimit c bd := by
  refine paletteLimit_pos bd fun hmax => ?_
  have hcheck := ((startCheck_encode_eq_none_iff hdir).mp h).2
  obtain ⟨i, hi⟩ := decodePack_ok_of_startCheck hdir h
  rw [checkEncode, decode_mode_encode, hi] at hcheck
  simp [Except.map, hct, hmax] at hcheck

/-- Settles O32: the prelude writes through the palette output alone, over the state START has initialised. -/
theorem indexedStartPalette : Obligations.IndexedStartPalette := by
  intro s e hmay htable hdir hct hscan bd limit
  have hencode : s.cfg.direction = .encode := if_pos hdir
  have hcheck := startCheck_eq_none_of_startTable hdir htable
  have hstart : exec .start s = .next (limitPalette (scannedState s e) limit) :=
    (execStart_of_check_passes hmay hcheck).trans (acceptStart_indexed hencode hct hscan)
  refine ⟨_, hstart, fun hfits => ?_, fun hlt hreduce => ?_⟩
  · rw [limitPalette_scannedState hfits]
    obtain ⟨-, hlen⟩ := palettedState_reducedFrom s (firstAppearances_of_scanPalette hscan).nodup
      (paletteLimit_pos_of_startCheck bd hencode hct hcheck)
    obtain ⟨hpal, hapal⟩ := outputPalette_lengths (hlen.trans (paletteLimit_le s.cfg bd))
    exact ⟨rfl, hpal, hapal, fun k c hk => outputPalette_entry hk, fun k hk => outputPalette_entry_of_length_le hk, rfl⟩
  · rw [limitPalette_scannedState_of_lt hlt (by rw [hreduce]; decide)]
    exact ⟨rfl, rfl, rfl, rfl⟩

/-! ### Every pixel has a representative (R205) -/

/-- PaletteCovers says nothing outside a run. -/
theorem paletteCovers_of_not_running {s : State} (h : s.status ≠ .running) : PaletteCovers s := fun hs => absurd hs h

/-- A palette that passes over all the colours of the image have left covers the image. -/
theorem paletteCovers_of_reducedFrom {s : State} {e : List Rgba}
    (he : ∀ x y, x < s.cfg.width.toNat → y < s.cfg.height.toNat → readPixel s x y ∈ e)
    (hred : ReducedFrom e (s.epal, s.rmap)) (hlen : s.epal.length ≤ 256) : PaletteCovers s := by
  intro _ _ _ x y hx hy
  have hrep : ∃ k, indexFor s.epal s.rmap (readPixel s x y) = some k := by
    by_cases hc : readPixel s x y ∈ s.epal
    · rw [indexFor_of_mem s.rmap hc]
      exact exists_indexOf_of_mem hc
    · rcases hred.covers _ (he x y hx hy) with hc' | ⟨kept, hlook, hkept⟩
      · exact absurd hc' hc
      · rw [indexFor_of_notMem s.rmap hc, hlook]
        exact exists_indexOf_of_mem hkept
  obtain ⟨k, hk⟩ := hrep
  exact ⟨k, hk, (indexFor_lt_length hk).trans_le hlen⟩

/-- The prelude's palette covers the image: the scan has seen every pixel. -/
theorem paletteCovers_palettedState {s : State} {e : List Rgba} {limit : Nat}
    (hscan : scanPalette none [] (allPixels s) = some e) (hpos : 1 ≤ limit) (hlimit : limit ≤ 256) :
    PaletteCovers (palettedState s e limit) := by
  have hfirst := firstAppearances_of_scanPalette hscan
  obtain ⟨hred, hlen⟩ := palettedState_reducedFrom s hfirst.nodup hpos
  exact paletteCovers_of_reducedFrom (fun x y hx hy => (hfirst.mem_iff _).mpr (readPixel_mem_allPixels s hx hy)) hred
    (hlen.trans hlimit)

theorem acceptStart_keeps_paletteCovers {s t : State} (hcheck : startCheck s.cfg = none) (h : acceptStart s = .next t) :
    PaletteCovers t := by
  rcases acceptStart_cases h with ⟨hmode, rfl⟩ | ⟨hdir, hct, e, hscan, rfl⟩
  · exact fun _ hdir hct => absurd ⟨hdir, hct⟩ hmode
  · by_cases hfits : e.length ≤ paletteLimit s.cfg (effectiveDepth s.cfg.bitDepth e.length) ∨ s.cfg.reduce = 1
    · rw [limitPalette_scannedState hfits]
      exact paletteCovers_palettedState hscan (paletteLimit_pos_of_startCheck _ hdir hct hcheck) (paletteLimit_le ..)
    · obtain ⟨hlt, hreduce⟩ := not_or.mp hfits
      rw [limitPalette_scannedState_of_lt (by omega) hreduce]
      exact paletteCovers_of_not_running (by simp)

theorem execStart_keeps_paletteCovers {s t : State} (h : execStart s = .next t) (hc : PaletteCovers s) : PaletteCovers t := by
  rcases execStart_cases h with ⟨-, rfl⟩ | ⟨-, -, k, -, rfl⟩ | ⟨-, -, hcheck, ha⟩
  · exact hc
  · exact paletteCovers_of_not_running (by simp)
  · exact acceptStart_keeps_paletteCovers hcheck ha

/-- The engine never writes EPAL or RMAP (10_state R53, R54). -/
theorem engineStep_epal_rmap {s t : State} (h : engineStep s = .next t) : t.epal = s.epal ∧ t.rmap = s.rmap := by
  rcases engineStep_cases h with ⟨-, rfl⟩ | ⟨hs, -, h⟩ | ⟨hs, -, h⟩
  · exact ⟨rfl, rfl⟩
  · rcases decodeStep_cases s with ⟨ft, cur, k, v, -, he⟩ | ⟨ft, pred, pixel, -, -, he⟩ <;> cases he.symm.trans h
    · simp
    · rw [endDecodeRow, if_pos (by exact hs), State.finishDecode_epal, State.finishDecode_rmap]
      exact ⟨rfl, rfl⟩
  · rcases encodeStep_cases s hs with ⟨ft, cur, k, v, -, he⟩ | ⟨ft, row, b, pred, he⟩ <;> cases he.symm.trans h
    · simp
    · rw [State.finishEncode_epal, State.finishEncode_rmap]
      exact ⟨rfl, rfl⟩

/-- A turn of the engine keeps the cover: an encode row changes neither the palette nor the pixels, nor the configuration while the
run goes on. -/
theorem engineStep_keeps_paletteCovers {s t : State} (h : engineStep s = .next t) (hc : PaletteCovers s) : PaletteCovers t := by
  by_cases hs : s.status = .running
  · rcases engineStep_row_cases hs h with ⟨ft, cur, k, v, rfl⟩ | ⟨hdir, hrow⟩ | ⟨hdir, hrow⟩
    · exact paletteCovers_of_not_running (by simp)
    · intro ht hdir'
      simp [hrow.cfg ht, hdir] at hdir'
    · intro ht
      obtain ⟨hepal, hrmap⟩ := engineStep_epal_rmap h
      simp only [hepal, hrmap, readPixel, State.readPix, hrow.pix, hrow.cfg ht]
      exact hc hs
  · cases (engineStep_not_running hs).symm.trans h
    exact hc

/-- What the host does keeps the cover: while Running it writes nothing the cover speaks of, and START begins with a palette that
covers. -/
theorem HostEffect.keeps_paletteCovers {s t : State} (h : HostEffect s t) (hc : PaletteCovers s) : PaletteCovers t := by
  cases h with
  | nothing => exact hc
  | read d n _ => exact hc
  | config c hs => exact paletteCovers_of_not_running hs
  | pal k c hs => exact paletteCovers_of_not_running hs
  | apal k a hs => exact paletteCovers_of_not_running hs
  | fstream a b hs => exact paletteCovers_of_not_running hs
  | pix a b hs => exact paletteCovers_of_not_running hs
  | start _ h => exact execStart_keeps_paletteCovers h hc
  | reset => exact paletteCovers_of_not_running (s := resetState s) (by simp [resetState, State.reset])

/-- Settles O51: the cover does not speak of the host's coming moves, and the engine's turn and every effect of the host keep it. -/
theorem stepKeepsPaletteCovers : Obligations.StepKeepsPaletteCovers := by
  intro s t hc h
  obtain ⟨p, he | he⟩ := step_cases h
  · exact engineStep_keeps_paletteCovers he hc
  · exact he.keeps_paletteCovers hc

/-! ### PaletteMiss is out of reach (R205) -/

/-- No word the decoder turns away reports PaletteMiss. -/
theorem decodeErrorKind_ne_paletteMiss (e : DecodeError) : decodeErrorKind e ≠ .paletteMiss := by
  cases e <;> simp [decodeErrorKind]

/-- FETCH faults with Truncated or BadFilter (44_control R227). -/
theorem fetch_err_ne_paletteMiss {s u : State} (h : fetch s = .error u) : u.err ≠ .paletteMiss := by
  unfold fetch at h
  split at h
  · cases h; simp
  · simp only at h
    split at h
    · cases h; simp
    · split at h <;> cases h
      simp

/-- What FETCH has done where it does not fault: FT is written, and names the UNFILT operation. -/
theorem fetch_ok {s t : State} {i : Instr} (h : fetch s = .ok (i, t)) :
    ∃ ft, decodeUnfilt ft = .ok i ∧ t = { s with ft := ft } := by
  rcases fetch_cases s with ⟨k, v, -, he⟩ | ⟨ft, k, v, -, he⟩ | ⟨i', ft, hi, -, -, he⟩ <;> cases he.symm.trans h
  exact ⟨ft, hi, rfl⟩

/-- A decode step raises no PaletteMiss: FETCH and UNPACK have kinds of their own (44_control R228). -/
theorem decodeStep_err_ne_paletteMiss {s t : State} (hs : s.status = .running) (herr : s.err ≠ .paletteMiss)
    (h : decodeStep s = .next t) : t.err ≠ .paletteMiss := by
  cases hf : fetch s with
  | error u =>
    rw [decodeStep, hf] at h
    cases h
    exact fetch_err_ne_paletteMiss hf
  | ok p =>
    obtain ⟨i, u⟩ := p
    obtain ⟨ft, hi, rfl⟩ := fetch_ok hf
    obtain ⟨pred, hx⟩ := exec_of_decodeUnfilt hi { s with ft := ft }
    cases hm : decodeUnpack s.cfg.bitDepth s.cfg.colorType with
    | error e =>
      cases (decodeStep_of_decodeUnpack_error hf hx hm).symm.trans h
      simp
    | ok k =>
      have hstep := (decodeStep_of_decodeUnpack_ok hf hx hm).symm.trans h
      rcases exec_of_decodeUnpack hm (unfilter pred { s with ft := ft }) with ⟨pixel, hk⟩ | ⟨v, hk⟩ <;>
        rw [hk] at hstep <;> cases hstep
      · rw [(rowCompleted_decode hs ft pred pixel).err]
        exact herr
      · simp [endDecodeRow]

/-- ENCODE_SCANLINE raises none: its one fault is that of a reserved filter byte (log 8). -/
theorem encodeScanline_err_ne_paletteMiss {s t : State} (herr : s.err ≠ .paletteMiss) (h : encodeScanline s = .next t) :
    t.err ≠ .paletteMiss := by
  unfold encodeScanline at h
  simp only [decode_scanline_encode] at h
  cases hd : decodeFilt (chooseFilter s) with
  | error e =>
    rw [hd] at h
    cases h
    exact decodeErrorKind_ne_paletteMiss e
  | ok i =>
    obtain ⟨b, pred, hx⟩ := exec_of_decodeFilt hd { s with ft := chooseFilter s }
    simp only [hd, Except.map, hx, andThen_next] at h
    cases h
    rw [State.finishEncode_err]
    exact herr

/-- Where the pixels of an Indexed row have representatives, a PACK operation completes. -/
theorem exec_of_decodePack_of_represented {s : State} {i : Instr} (h : decodePack s.cfg.bitDepth s.cfg.colorType = .ok i)
    (hrep : s.cfg.colorType = 3 → ∀ x, x < s.cfg.width.toNat → pixelIndex s x ≠ none) :
    ∃ row, exec i s = .next (s.setCur row) := by
  unfold decodePack at h
  split at h
  · split at h <;> cases h
    exact ⟨_, rfl⟩
  · split at h <;> cases h
    exact ⟨_, rfl⟩
  · next hct =>
    split at h <;> cases h
    exact ⟨_, execPackIdx8_of_represented s.cfg.bitDepth (hrep (BitVec.eq_of_toNat_eq hct))⟩
  · cases h

/-- An encode step raises none where the pixels of an Indexed row have representatives (44_control R229). -/
theorem encodeStep_err_ne_paletteMiss {s t : State} (hs : s.status = .running) (herr : s.err ≠ .paletteMiss)
    (hrep : s.cfg.colorType = 3 → ∀ x, x < s.cfg.width.toNat → pixelIndex s x ≠ none) (h : encodeStep s = .next t) :
    t.err ≠ .paletteMiss := by
  unfold encodeStep at h
  simp only [decode_mode_encode] at h
  cases hd : decodePack s.cfg.bitDepth s.cfg.colorType with
  | error e =>
    rw [hd] at h
    cases h
    exact decodeErrorKind_ne_paletteMiss e
  | ok i =>
    obtain ⟨row, hx⟩ := exec_of_decodePack_of_represented hd hrep
    simp only [hd, Except.map, hx, andThen_next] at h
    rw [if_pos (by exact hs)] at h
    exact encodeScanline_err_ne_paletteMiss (s := s.setCur row) herr h

/-- While Running the host raises nothing: START is ignored, and RESET leaves ERR = 0. -/
theorem HostEffect.err_ne_paletteMiss {s t : State} (hs : s.status = .running) (herr : s.err ≠ .paletteMiss)
    (h : HostEffect s t) : t.err ≠ .paletteMiss := by
  cases h with
  | nothing => exact herr
  | read d n _ => exact herr
  | config c _ => exact herr
  | pal k c _ => exact herr
  | apal k a _ => exact herr
  | fstream a b _ => exact herr
  | pix a b _ => exact herr
  | start _ h =>
    rcases execStart_cases h with ⟨-, rfl⟩ | ⟨hn, -⟩ | ⟨hn, -⟩
    · exact herr
    · exact absurd hs hn
    · exact absurd hs hn
  | reset => simp [resetState, State.reset]

/-- Settles O52: a row of the image is covered, so the pixel pass completes, and no other part of a step raises PaletteMiss. -/
theorem paletteMissUnreachable : Obligations.PaletteMissUnreachable := by
  intro s t hr hf hc hs h
  have hnone : s.err = .none := not_not.mp (mt hf.2 (by simp [hs]))
  have herr : s.err ≠ .paletteMiss := by simp [hnone]
  obtain ⟨-, -, hy, -⟩ := hr hs
  obtain ⟨p, he | he⟩ := step_cases h
  · rcases engineStep_cases he with ⟨hn, -⟩ | ⟨-, -, hstep⟩ | ⟨-, hdir, hstep⟩
    · exact absurd hs hn
    · exact decodeStep_err_ne_paletteMiss (s := { s with pending := p }) hs herr hstep
    · refine encodeStep_err_ne_paletteMiss (s := { s with pending := p }) hs herr (fun hct x hx => ?_) hstep
      obtain ⟨k, hk, -⟩ := hc hs hdir hct x s.y.toNat hx hy
      exact Option.ne_none_iff_exists'.mpr ⟨k, hk⟩
  · exact HostEffect.err_ne_paletteMiss (s := { s with pending := p }) hs herr he

end Sys2Proof.Machine
end

section
/-! PROOFS. The checks of START (44_control R224): the model's checks are the rows of the table in their order, so the first failing row
names the fault; and what an accepted START begins (R225). -/

namespace Sys2Proof.Machine

/-- DIR = 1 is the encode direction (10_state R31). -/
theorem Cfg.direction_eq_encode_iff (c : Cfg) : c.direction = .encode ↔ c.dir = 1 := by
  simp [Cfg.direction]

/-! ### The mode pairs in the checks -/

/-- The pairs (COLOR_TYPE, BIT_DEPTH) that check 5 lets pass. -/
def decodePairs : List (Nat × Nat) :=
  [(0, 1), (0, 2), (0, 4), (0, 8), (0, 16), (2, 8), (2, 16), (3, 1), (3, 2), (3, 4), (3, 8), (4, 8), (4, 16), (6, 8), (6, 16)]

/-- The pairs that check 9 lets pass. -/
def encodePairs : List (Nat × Nat) := [(6, 8), (2, 8), (3, 0), (3, 1), (3, 2), (3, 4), (3, 8)]

/-- The pairs check 5 lets pass name an UNPACK operation (30_encoding R99). -/
theorem decodeUnpack_ok_of_mem {bd ct : Byte} (h : (ct.toNat, bd.toNat) ∈ decodePairs) : ∃ i, decodeUnpack bd ct = .ok i := by
  cases hd : decodeUnpack bd ct with
  | ok i => exact ⟨i, rfl⟩
  | error e =>
    unfold decodeUnpack at hd
    split at hd <;> simp_all [decodePairs]

/-- Checks 4 to 8, with the decoder's answer read off the mode pair. -/
theorem checkDecode_eq (c : Cfg) : checkDecode c =
    if c.colorType.toNat ∉ [0, 2, 3, 4, 6] then some .badHeader
    else if (c.colorType.toNat, c.bitDepth.toNat) ∉ decodePairs then some .badBitDepth
    else if c.colorType = 3 ∧ c.palLen = 0 then some .missingPalette
    else if c.colorType = 3 ∧ 256 < c.palLen.toNat then some .badPalette
    else if badTransparency c then some .badTransparency
    else none := by
  rw [checkDecode, decode_mode_decode]
  by_cases hct : c.colorType.toNat ∈ [0, 2, 3, 4, 6]
  · rw [if_neg (not_not.mpr hct)]
    by_cases hpair : (c.colorType.toNat, c.bitDepth.toNat) ∈ decodePairs
    · obtain ⟨i, hi⟩ := decodeUnpack_ok_of_mem hpair
      rw [if_neg (not_not.mpr hpair), hi]
      rfl
    · rw [if_pos hpair, decodeUnpack_badBitDepth hct hpair]
      rfl
  · rw [if_pos hct, decodeUnpack_unknownColorType _ hct]
    rfl

/-- Checks 9 to 11, with the decoder's answer read off the mode pair. -/
theorem checkEncode_eq (c : Cfg) : checkEncode c =
    if (c.colorType.toNat, c.bitDepth.toNat) ∉ encodePairs then some .unsupportedMode
    else if (c.colorType = 6 ∨ c.colorType = 2) ∧ c.filterMode = 1 ∧ (c.fixedFilterValid = 0 ∨ 4 < c.fixedFilter.toNat) then
      some .badFilter
    else if c.colorType = 3 ∧ c.maxPalSet = 1 ∧ c.maxPal = 0 then some .badPalette
    else none := by
  rw [checkEncode, decode_mode_encode]
  by_cases hpair : (c.colorType.toNat, c.bitDepth.toNat) ∈ encodePairs
  · obtain ⟨i, hi⟩ := decodePack_ok_of_mem hpair
    rw [if_neg (not_not.mpr hpair), hi]
    rfl
  · rw [if_pos hpair, decodePack_unsupportedMode hpair]
    rfl

/-! ### The checks and the rows of the table -/

/-- A check that fails exactly when the next row of the table does. -/
theorem ite_eq_firstFailing {p : Prop} [Decidable p] {b : Bool} {k : ErrKind} {x : Option ErrKind} {l : List (Bool × ErrKind)}
    (hb : p ↔ b = true) (hx : x = firstFailing l) : (if p then some k else x) = firstFailing ((b, k) :: l) :=
  hx ▸ if_congr hb rfl rfl

/-- A row that fails no configuration of the direction. -/
theorem eq_firstFailing_of_false {b : Bool} {k : ErrKind} {x : Option ErrKind} {l : List (Bool × ErrKind)}
    (hb : b = false) (hx : x = firstFailing l) : x = firstFailing ((b, k) :: l) := by
  rw [hx, hb]
  rfl

/-- A row that turns away what is not in a list, in its own direction. -/
theorem notMem_iff_row {α : Type} [BEq α] [LawfulBEq α] {d : Bool} (hd : d = true) (x : α) (l : List α) :
    x ∉ l ↔ (d && !l.contains x) = true := by
  simp [hd]

/-- Check 3 for one dimension. -/
theorem legalDim_eq_false_iff (d : BitVec 32) : legalDim d = false ↔ (d.toNat == 0 || decide (2 ^ 31 ≤ d.toNat)) = true := by
  rw [legalDim, decide_eq_false_iff_not, Bool.or_eq_true, beq_iff_eq, decide_eq_true_iff]
  omega

/-- Checks 4 to 8 are rows 4 to 8 with DIR = 0, in which rows 9 to 11 fail nothing. -/
theorem checkDecode_eq_firstFailing {c : Cfg} (hdir : c.dir = 0) : checkDecode c = firstFailing ((startTable c).drop 3) := by
  rw [checkDecode_eq]
  refine ite_eq_firstFailing (notMem_iff_row ?_ _ _) <| ite_eq_firstFailing (notMem_iff_row ?_ _ _) <|
    ite_eq_firstFailing ?_ <| ite_eq_firstFailing ?_ <| ite_eq_firstFailing ?_ <|
    eq_firstFailing_of_false ?_ <| eq_firstFailing_of_false ?_ <| eq_firstFailing_of_false ?_ rfl
  all_goals simp [hdir, badTransparency, ← BitVec.toNat_inj]

/-- Checks 9 to 11 are rows 9 to 11 with DIR = 1, in which rows 4 to 8 fail nothing. -/
theorem checkEncode_eq_firstFailing {c : Cfg} (hdir : c.dir = 1) : checkEncode c = firstFailing ((startTable c).drop 3) := by
  rw [checkEncode_eq]
  refine eq_firstFailing_of_false ?_ <| eq_firstFailing_of_false ?_ <| eq_firstFailing_of_false ?_ <|
    eq_firstFailing_of_false ?_ <| eq_firstFailing_of_false ?_ <|
    ite_eq_firstFailing (notMem_iff_row ?_ _ _) <| ite_eq_firstFailing ?_ <| ite_eq_firstFailing ?_ rfl
  all_goals simp [hdir, ← BitVec.toNat_inj, and_assoc]

/-- The checks of START are the table of R224. -/
theorem startCheck_eq_firstFailing (c : Cfg) : startCheck c = firstFailing (startTable c) := by
  refine ite_eq_firstFailing (by simp) <| ite_eq_firstFailing (by simp) <|
    ite_eq_firstFailing (by simp [legalDim_eq_false_iff]) ?_
  rcases BitVec.eq_zero_or_eq_one c.dir with hdir | hdir
  · rw [show c.direction = .decode by simp [Cfg.direction, hdir]]
    exact checkDecode_eq_firstFailing hdir
  · rw [show c.direction = .encode by simp [Cfg.direction, hdir]]
    exact checkEncode_eq_firstFailing hdir

/-- Settles O30: the checks are the table, and START raises the first that fails. -/
theorem startChecksInOrder : Obligations.StartChecksInOrder := fun s _ hmay hk =>
  execStart_of_check_fails hmay ((startCheck_eq_firstFailing s.cfg).trans hk)

/-! ### What an accepted START begins (R225) -/

theorem acceptStart_of_no_prelude {s : State} (h : ¬(s.cfg.dir = 1 ∧ s.cfg.colorType = 3)) :
    acceptStart s = .next (initRun s) :=
  if_neg (by rwa [s.cfg.direction_eq_encode_iff])

theorem acceptStart_of_prelude {s : State} (h : s.cfg.dir = 1 ∧ s.cfg.colorType = 3) :
    acceptStart s = idx8Prelude Config.epalCap (initRun s) :=
  if_pos (by rwa [s.cfg.direction_eq_encode_iff])

/-- Settles O31: a table without a failing row is passed checks, and the begun run is `initRun`. -/
theorem startAccepted : Obligations.StartAccepted := by
  intro s hmay htable begun
  have hstart : exec .start s = acceptStart s :=
    execStart_of_check_passes hmay ((startCheck_eq_firstFailing s.cfg).trans htable)
  exact ⟨fun h => hstart.trans (acceptStart_of_no_prelude h), fun h => hstart.trans (acceptStart_of_prelude h)⟩

end Sys2Proof.Machine
end

section
/-! PROOFS. The commands NOP, START and RESET where nothing is checked (44_control R221, R223, R232). -/

namespace Sys2Proof.Machine

/-- Settles O28: NOP's meaning is the state itself. -/
theorem nopChangesNothing : Obligations.NopChangesNothing :=
  ⟨hasWord_encode (i := .nop) rfl, fun _ => rfl⟩

/-- START changes nothing while Running and in Faulted (R223). -/
theorem execStart_ignored {s : State} (h : s.status = .running ∨ s.status = .faulted) : execStart s = .next s := by
  rcases h with hs | hs <;> simp only [execStart, hs]

/-- Settles O29: both states are arms of START that answer the state itself. -/
theorem startIgnored : Obligations.StartIgnored :=
  ⟨hasWord_encode (i := .start) rfl, fun _ => execStart_ignored⟩

/-- RESET keeps FSTREAM but where it aborts an encode run (R232). -/
theorem resetState_fstream_of_kept {s : State} (h : ¬(s.status = .running ∧ s.cfg.direction = .encode)) :
    (resetState s).fstream = s.fstream := by
  rw [resetState_fstream]
  split
  · next hs =>
    cases hdir : s.cfg.direction with
    | decode => exact s.scrambleOutput_fstream_decode hdir
    | encode => exact absurd ⟨hs, hdir⟩ h
  · rfl

/-- RESET keeps PIX but where it aborts a decode run (R232). -/
theorem resetState_pix_of_kept {s : State} (h : ¬(s.status = .running ∧ s.cfg.direction = .decode)) :
    (resetState s).pix = s.pix := by
  rw [resetState_pix]
  split
  · next hs =>
    cases hdir : s.cfg.direction with
    | decode => exact absurd ⟨hs, hdir⟩ h
    | encode => exact s.scrambleOutput_pix_encode hdir
  · rfl

/-- Settles O33: the registers are those of the reset state, and the spaces stay but for an aborted run's output. -/
theorem resetCommand : Obligations.ResetCommand :=
  ⟨hasWord_encode (i := .reset) rfl, fun s => ⟨resetState s, rfl, rfl, rfl, rfl, rfl, rfl, rfl, rfl, rfl, rfl, rfl, rfl,
    resetState_fstream_of_kept, resetState_pix_of_kept⟩⟩

end Sys2Proof.Machine
end

section
/-! PROOFS. The host's accesses (44_control R222, R233; 10_state R24): the RW registers as a list, which a write changes at one place;
what the reads hand back; and the writes that have no effect while Running. -/

namespace Sys2Proof.Machine

/-! ### The RW registers as a list (10_state R24) -/

/-- The values of the RW registers, in the order of their indices. -/
def rwValues (c : Cfg) : List Nat :=
  [c.width.toNat, c.height.toNat, c.bitDepth.toNat, c.colorType.toNat, c.filterMethod.toNat, c.interlace.toNat, c.dir.toNat,
    c.trnsKind.toNat, c.trnsGray.toNat, c.trnsR.toNat, c.trnsG.toNat, c.trnsB.toNat, c.palLen.toNat, c.apalLen.toNat,
    c.filterMode.toNat, c.fixedFilterValid.toNat, c.fixedFilter.toNat, c.srcAbgr.toNat, c.maxPalSet.toNat, c.maxPal.toNat,
    c.reduce.toNat, c.fstreamLen]

theorem readCfg_eq_getElem? (c : Cfg) (i : Nat) : readCfg c i = (rwValues c)[i]? := by
  by_cases hi : i < 22
  · interval_cases i <;> rfl
  · rw [readCfg_eq_none c (by omega), List.getElem?_eq_none (by simp [rwValues]; omega)]

/-- What a register keeps of a written value (R233): its low bits, and FSTREAM_LEN all of them. -/
def keptValue (i v : Nat) : Nat := (registerWidths[i]?).elim v fun w => v % 2 ^ w

/-- A write of an RW register puts what the register keeps at its place in the list. -/
theorem exists_writeCfg (c : Cfg) {i : Nat} (v : Nat) (hi : i < 22) :
    ∃ c', writeCfg c i v = some c' ∧ rwValues c' = (rwValues c).set i (keptValue i v) := by
  interval_cases i <;> exact ⟨_, rfl, rfl⟩

theorem readCfg_writeCfg_same {c c' : Cfg} {i v : Nat} (hi : i < 22) (h : writeCfg c i v = some c') :
    readCfg c' i = some (keptValue i v) := by
  obtain ⟨c'', hw, hset⟩ := exists_writeCfg c v hi
  cases hw.symm.trans h
  rw [readCfg_eq_getElem?, hset, List.getElem?_set_self hi]

theorem readCfg_writeCfg_other {c c' : Cfg} {i j v : Nat} (hi : i < 22) (h : writeCfg c i v = some c') (hj : j ≠ i) :
    readCfg c' j = readCfg c j := by
  obtain ⟨c'', hw, hset⟩ := exists_writeCfg c v hi
  cases hw.symm.trans h
  rw [readCfg_eq_getElem?, readCfg_eq_getElem?, hset, List.getElem?_set_ne hj.symm]

/-- A register that has a width is an RW register other than FSTREAM_LEN, and keeps that many bits. -/
theorem keptValue_of_width {i w : Nat} (v : Nat) (h : registerWidths[i]? = some w) : i < 22 ∧ keptValue i v = v % 2 ^ w := by
  obtain ⟨hi, -⟩ := List.getElem?_eq_some_iff.mp h
  exact ⟨Nat.lt_succ_of_lt hi, by rw [keptValue, h]; rfl⟩

/-! ### The moves on registers -/

/-- A read of a readable register hands its value back and changes nothing else (R233). -/
theorem step_regRead {s : State} {rest : List HostMove} {i n : Nat} (hp : s.pending = .regRead i :: rest)
    (hn : regValue s i = some n) : step s = .next { s with pending := rest, hostData := .number n } := by
  have hn' : regValue { s with pending := rest } i = some n := hn
  rw [step_of_pending_cons hp (by simp), hostMove, hostRegRead, hn']

/-- A write of an RW register has an effect outside Running alone (R222). -/
theorem step_regWrite {s : State} {rest : List HostMove} {i v : Nat} {c : Cfg} (hp : s.pending = .regWrite i v :: rest)
    (hi : i < 22) (hw : writeCfg s.cfg i v = some c) :
    step s = .next { s with pending := rest, cfg := if s.status = .running then s.cfg else c } := by
  rw [step_of_pending_cons hp (by simp), hostMove, hostRegWrite, if_neg (by omega)]
  simp only [hw]
  split <;> rfl

/-- Settles O43: the write sets the register's place in the list to what it keeps, and the read hands that place back. -/
theorem registerWriteThenRead : Obligations.RegisterWriteThenRead := by
  intro s i v w rest hs hreg hp
  obtain ⟨hi, hkept⟩ : i < 22 ∧ keptValue i v = v % 2 ^ w := by
    rcases hreg with hw | ⟨rfl, hv⟩
    · exact keptValue_of_width v hw
    · exact ⟨by decide, (Nat.mod_eq_of_lt hv).symm⟩
  obtain ⟨c, hc, -⟩ := exists_writeCfg s.cfg v hi
  have hread : regValue { s with pending := .regRead i :: rest, cfg := c } i = some (v % 2 ^ w) := by
    rw [regValue, readCfg_writeCfg_same hi hc, hkept]
    rfl
  have hwrite := step_regWrite hp hi hc
  rw [if_neg hs] at hwrite
  refine ⟨_, _, hwrite, step_regRead rfl hread, rfl, fun j hj => ?_, rfl⟩
  exact congrArg (Option.or · (readStatus s j)) (readCfg_writeCfg_other hi hc hj)

/-- Settles O44: each list pairs an index with the register's value, or a value of STATE or ERR with its number. -/
theorem registersRead : Obligations.RegistersRead := by
  intro s rest reads c
  have reads_of {i n : Nat} (hn : regValue s i = some n) : reads i n := fun hp => step_regRead hp hn
  have hstatus : ∀ e ∈ ([(.idle, 0), (.running, 1), (.done, 2), (.faulted, 3)] : List (RunState × Nat)),
      e.1.code.toNat = e.2 := by decide
  have herr : ∀ e ∈ ([(.none, 0), (.badSignature, 1), (.truncated, 2), (.chunkLengthMismatch, 3), (.badHeader, 4),
      (.badPalette, 5), (.missingPalette, 6), (.missingData, 7), (.badTransparency, 8), (.badFilter, 9), (.badBitDepth, 10),
      (.unsupportedColorType, 11), (.unsupportedMode, 12), (.paletteMiss, 13), (.inflateError, 14), (.deflateError, 15),
      (.unsupportedInterlace, 16), (.corruptChunk, 17), (.paletteIndexRange, 18)] : List (ErrKind × Nat)),
      e.1.code.toNat = e.2 := by decide
  refine ⟨fun e he => reads_of ?_, fun e he hs => reads_of ?_, fun e he hk => reads_of ?_⟩
  · revert e
    simp [regValue, readCfg, readStatus, c]
  · rw [← hstatus e he, ← hs]
    rfl
  · rw [← herr e he, ← hk]
    rfl

/-- Settles O45: a register or table write asks for STATE first, and START is ignored while Running. -/
theorem writesIgnoredWhileRunning : Obligations.WritesIgnoredWhileRunning := by
  rintro s m rest hs hp (⟨i, v, hi, rfl⟩ | ⟨k, c, rfl⟩ | ⟨k, a, rfl⟩ | rfl)
  · obtain ⟨c, hc, -⟩ := exists_writeCfg s.cfg v hi
    rw [step_regWrite hp hi hc, if_pos hs]
  · rw [step_of_pending_cons hp (by simp)]
    exact if_pos hs
  · rw [step_of_pending_cons hp (by simp)]
    exact if_pos hs
  · exact (step_of_command (i := .start) rfl rfl hp).trans (execStart_ignored (.inl hs))

/-! ### Tables and spaces (R220, R233) -/

theorem palEntry_write_same (m : Store Rgb) (k : Nat) (c : Rgb) : palEntry (m.write k c) k = c := by
  rw [palEntry, Store.get?_write_same]

theorem Memory.byte_write_same (m : Memory) (k : Nat) (b : Byte) : Memory.byte (m.write k b) k = b := by
  rw [Memory.byte, Store.get?_write_same]

theorem Memory.byte_write_other (m : Memory) {k j : Nat} (b : Byte) (h : j ≠ k) :
    Memory.byte (m.write k b) j = Memory.byte m j := by
  rw [Memory.byte, Store.get?_write_other m b h, Store.write_tag, Memory.byte]

/-- Outside Running a read of FSTREAM hands the byte back (70_reset_and_hazards R290). -/
theorem hostMove_fstreamRead {s : State} (hs : s.status ≠ .running) (a : Nat) :
    hostMove (.fstreamRead a) s = .next { s with hostData := .byte (s.readFstream a) } :=
  congrArg Host.Outcome.next (if_neg fun h => hs h.1)

/-- Outside Running a read of PIX does. -/
theorem hostMove_pixRead {s : State} (hs : s.status ≠ .running) (a : Nat) :
    hostMove (.pixRead a) s = .next { s with hostData := .byte (s.readPix a) } :=
  congrArg Host.Outcome.next (if_neg fun h => hs h.1)

/-- Of two moves neither of which waits, a step makes the first and the next step the second. -/
theorem step_step_of_pending {s t u : State} {w r : HostMove} {rest : List HostMove} (hp : s.pending = w :: r :: rest)
    (hw : w ≠ .await) (hr : r ≠ .await) (hwrite : hostMove w { s with pending := r :: rest } = .next t)
    (ht : t.pending = r :: rest) (hread : hostMove r { t with pending := rest } = .next u) :
    step s = .next t ∧ step t = .next u :=
  ⟨(step_of_pending_cons hp hw).trans hwrite, (step_of_pending_cons ht hr).trans hread⟩

/-- Settles O47: outside Running both moves reach the store, which answers the element written. -/
theorem tableAndMemoryReadBack : Obligations.TableAndMemoryReadBack := by
  intro s rest hs
  refine ⟨fun k c hk hp => ?_, fun k a hk hp => ?_, fun a b hp => ?_, fun a b hp => ?_⟩
  · obtain ⟨hw, hr⟩ := step_step_of_pending hp (by simp) (by simp) (if_neg hs) rfl ((if_neg hs).trans (if_pos hk))
    exact ⟨_, _, hw, hr, congrArg _ (palEntry_write_same ..)⟩
  · obtain ⟨hw, hr⟩ := step_step_of_pending hp (by simp) (by simp) (if_neg hs) rfl ((if_neg hs).trans (if_pos hk))
    exact ⟨_, _, hw, hr, congrArg _ (Memory.byte_write_same ..)⟩
  · obtain ⟨hw, hr⟩ := step_step_of_pending hp (by simp) (by simp) (if_neg hs) rfl (hostMove_fstreamRead (by exact hs) a)
    exact ⟨_, _, hw, hr, congrArg _ (Memory.byte_write_same ..), fun _ h => Memory.byte_write_other _ _ h⟩
  · obtain ⟨hw, hr⟩ := step_step_of_pending hp (by simp) (by simp) (if_neg hs) rfl (hostMove_pixRead (by exact hs) a)
    exact ⟨_, _, hw, hr, congrArg _ (Memory.byte_write_same ..), fun _ h => Memory.byte_write_other _ _ h⟩

end Sys2Proof.Machine
end

section
/-! PROOFS. The run loop (44_control R226 to R231): FETCH and its faults, the operations a scanline step runs, what it leaves behind,
that the configuration stays while a run goes on (R222), and that every run ends (R230). -/

namespace Sys2Proof.Machine

/-- Settles O7: with no host move pending a step is the engine's turn. -/
theorem engineIdleOutsideRunning : Obligations.EngineIdleOutsideRunning := fun _ hp hs =>
  (step_of_pending_nil hp).trans (engineStep_not_running hs)

/-! ### FETCH (R227) -/

/-- The filter-type bytes 0 to 4 name the UNFILT operations (30_encoding R92). -/
theorem decodeUnfilt_ok_of_le {ft : Byte} (h : ft.toNat ≤ 4) : ∃ i, decodeUnfilt ft = .ok i := by
  obtain ⟨-, -, i, hi, -⟩ := exists_namesFilter h
  exact ⟨i, hi⟩

/-- A scanline has its filter-type byte at least (00_scope R11). -/
theorem Cfg.slen_pos (c : Cfg) : 0 < c.slen := by
  unfold Cfg.slen; omega

/-- A fault of FETCH ends the engine's turn. -/
theorem engineStep_of_fetch_error {s t : State} (hs : s.status = .running) (hdir : s.cfg.direction = .decode)
    (h : fetch s = .error t) : engineStep s = .next t := by
  rw [engineStep_decode hs hdir, decodeStep, h]

/-- Settles O35: each case is one answer of FETCH, and a byte up to 4 names an UNFILT operation. -/
theorem fetchFaults : Obligations.FetchFaults := by
  intro s hs hdir ft
  refine ⟨fun hended => ?_, fun hlt hft => ?_, fun hlt hft hcut => ?_, fun hwhole hft => ?_⟩
  · exact engineStep_of_fetch_error hs hdir (fetch_of_ended hended)
  · exact engineStep_of_fetch_error hs hdir (fetch_of_badFilter hlt (decodeUnfilt_reserved hft))
  · obtain ⟨i, hi⟩ := decodeUnfilt_ok_of_le hft
    exact engineStep_of_fetch_error hs hdir (fetch_of_cut hlt hi hcut)
  · obtain ⟨i, hi⟩ := decodeUnfilt_ok_of_le hft
    have hlt : s.ip < s.cfg.fstreamLen := (Nat.lt_add_of_pos_right s.cfg.slen_pos).trans_le hwhole
    obtain ⟨hwf, hcontext, hword⟩ := isWordOf_of_decodeUnfilt hi
    refine ⟨i, ?_, fetch_of_whole hlt hi hwhole⟩
    rw [← hcontext, ← hword]
    exact hasWord_encode hwf

/-! ### The operations of a scanline step (R228, R229) -/

/-- Settles O4: FETCH answers the UNFILT operation, which leaves the configuration, and then the mode word decides. -/
theorem stepRunsDecodeRow : Obligations.StepRunsDecodeRow := by
  intro s i hp hs hdir hwhole hft
  obtain ⟨hi, -⟩ := map_pair_eq_ok_iff.mp hft
  have hlt : s.ip < s.cfg.fstreamLen := (Nat.lt_add_of_pos_right s.cfg.slen_pos).trans_le hwhole
  have hfetch := fetch_of_whole hlt hi hwhole
  obtain ⟨pred, hx⟩ := exec_of_decodeUnfilt hi { s with ft := s.readFstream s.ip }
  rw [step_of_pending_nil hp, engineStep_decode hs hdir, hx]
  refine ⟨fun m hm => ?_, fun e he => ?_⟩
  · obtain ⟨hm, -⟩ := map_pair_eq_ok_iff.mp hm
    exact decodeStep_of_decodeUnpack_ok hfetch hx hm
  · cases hm : decodeUnpack s.cfg.bitDepth s.cfg.colorType with
    | ok m => simp [hm, Except.map] at he
    | error e' => exact decodeStep_of_decodeUnpack_error hfetch hx hm

/-- ENCODE_STEP goes on from the PACK operation of the mode word, unless that raised (R229). -/
theorem encodeStep_of_pack {s u : State} {m : Instr}
    (hm : decode (.mode .encode) [s.cfg.bitDepth, s.cfg.colorType] = .ok (m, [])) (hx : exec m s = .next u) :
    encodeStep s = if u.status = .running then encodeScanline u else .next u := by
  rw [encodeStep, hm]
  exact congrArg (andThen · _) hx

/-- Settles O5: the step is what follows the PACK operation. -/
theorem stepRunsEncodeRow : Obligations.StepRunsEncodeRow := by
  intro s u m hp hs hdir hm hx
  rw [step_of_pending_nil hp, engineStep_encode hs hdir, encodeStep_of_pack hm hx]
  refine ⟨fun hu => if_neg hu, fun i hu hi => ?_⟩
  rw [if_pos hu, encodeScanline, hi]

/-- Settles O37: a turn of the engine always answers, with a raise at row Y or with the completed row. -/
theorem engineStepAdvances : Obligations.EngineStepAdvances := by
  intro s hs
  obtain ⟨t, ht⟩ := engineStep_total s
  refine ⟨t, ht, ?_⟩
  rcases engineStep_running_cases hs ht with ⟨ft, cur, k, v, hk, rfl⟩ | hrow
  · exact .inl ⟨rfl, hk, rfl, State.raise_y .., State.raise_ip ..⟩
  · exact .inr ⟨hrow.y, hrow.ip, hrow.prev, hrow.err, hrow.status⟩

/-! ### The configuration of a run (R222) -/

/-- From `s` to `t` the configuration, the tables and the scratch palette with its map stay. -/
def ConfigurationKept (s t : State) : Prop :=
  t.cfg = s.cfg ∧ t.pal = s.pal ∧ t.apal = s.apal ∧ t.epal = s.epal ∧ t.rmap = s.rmap

theorem configurationKept_refl (s : State) : ConfigurationKept s s := ⟨rfl, rfl, rfl, rfl, rfl⟩

/-- A turn of the engine that leaves the block Running has completed a row, which writes none of them. -/
theorem engineStep_keeps_configuration {s t : State} (hs : s.status = .running) (h : engineStep s = .next t)
    (ht : t.status = .running) : ConfigurationKept s t := by
  obtain ⟨hepal, hrmap⟩ := engineStep_epal_rmap h
  rcases engineStep_row_cases hs h with ⟨ft, cur, k, v, rfl⟩ | ⟨-, hrow⟩ | ⟨-, hrow⟩
  · simp at ht
  · exact ⟨hrow.cfg ht, hrow.pal, hrow.apal, hepal, hrmap⟩
  · exact ⟨hrow.cfg ht, hrow.pal, hrow.apal, hepal, hrmap⟩

/-- While Running the host writes none of them: START is ignored, and RESET ends the run. -/
theorem HostEffect.keeps_configuration {s t : State} (hs : s.status = .running) (h : HostEffect s t)
    (ht : t.status = .running) : ConfigurationKept s t := by
  cases h with
  | nothing => exact configurationKept_refl s
  | read d n _ => exact configurationKept_refl s
  | config c hn => exact absurd hs hn
  | pal k c hn => exact absurd hs hn
  | apal k a hn => exact absurd hs hn
  | fstream a b hn => exact absurd hs hn
  | pix a b hn => exact absurd hs hn
  | start _ h =>
    cases (execStart_ignored (.inl hs)).symm.trans h
    exact configurationKept_refl s
  | reset => cases ht

/-- Settles O41: the host's coming moves are no part of the configuration, and neither the engine's turn nor an effect of the host
writes it in a run that goes on. -/
theorem configurationFixedInRun : Obligations.ConfigurationFixedInRun := by
  intro s t hs h ht
  obtain ⟨p, he | he⟩ := step_cases h
  · exact engineStep_keeps_configuration (s := { s with pending := p }) hs he ht
  · exact HostEffect.keeps_configuration (s := { s with pending := p }) hs he ht

/-! ### The end of a run (R230) -/

/-- Where `n` rows are left of a run, `n` turns of the engine end it: each completes a row, or faults. -/
theorem runRows_ends {n : Nat} {s : State} (hs : s.status = .running) (hn : 0 < n)
    (hrows : s.y.toNat + n = s.cfg.height.toNat) :
    ∃ t, runRows n s = .next t ∧ (t.status = .done ∨ t.status = .faulted) := by
  induction n generalizing s with
  | zero => exact absurd hn (Nat.lt_irrefl 0)
  | succ n ih =>
    obtain ⟨u, hu⟩ := engineStep_total s
    rw [runRows, if_pos hs, hu, andThen_next]
    rcases engineStep_running_cases hs hu with ⟨ft, cur, k, v, -, rfl⟩ | hrow
    · exact ⟨_, runRows_not_running n (by simp), .inr rfl⟩
    · have hy : u.y.toNat = s.y.toNat + 1 := hrow.y_toNat (by omega)
      by_cases hlast : u.y = s.cfg.height
      · have hdone : u.status = .done := hrow.status.trans (if_pos hlast)
        exact ⟨u, runRows_not_running n (by simp [hdone]), .inl hdone⟩
      · have hne : u.y.toNat ≠ s.cfg.height.toNat := fun he => hlast (BitVec.eq_of_toNat_eq he)
        exact ih (hrow.status.trans (if_neg hlast)) (by omega) (by rw [hrow.height]; omega)

/-- Settles O55: the run is a run of rows, of which HEIGHT - Y are left. -/
theorem runEnds : Obligations.RunEnds := by
  intro s hr hs hp
  obtain ⟨-, -, hy, -⟩ := hr hs
  obtain ⟨t, ht, hend⟩ := runRows_ends hs (Nat.sub_pos_of_lt hy) (Nat.add_sub_cancel' hy.le)
  exact ⟨t, (run_eq_runRows hp _).trans ht, hend⟩

end Sys2Proof.Machine
end

section
/-! PROOFS. Faults in 60_exceptions: what fault entry writes and keeps (R250, R252), that Faulted is left by RESET alone (R253), and the
tags of unspecified contents, which every step keeps below the next one. -/

namespace Sys2Proof.Machine

/-! ### Fault entry (R250, R252) -/

/-- Of the configuration an encode fault changes only what is output of the run. -/
theorem State.raise_cfg_encode (s : State) (k : ErrKind) (row info : BitVec 32) (hdir : s.cfg.direction = .encode) :
    (s.raise k row info).cfg =
      { s.cfg with
        palLen := (s.raise k row info).cfg.palLen
        apalLen := (s.raise k row info).cfg.apalLen
        trnsKind := (s.raise k row info).cfg.trnsKind
        fstreamLen := (s.raise k row info).cfg.fstreamLen } := by
  simp only [State.raise, State.scrambleOutput, hdir, State.enterFault_cfg]

/-- Settles O36: the four writes, and of the rest what is no output of the direction stays. -/
theorem faultEntry : Obligations.FaultEntry := fun s k row info =>
  ⟨⟨rfl, rfl, rfl, rfl⟩, ⟨State.raise_y .., State.raise_ip .., State.raise_ft ..⟩,
    fun hdir => ⟨s.raise_fstream_decode k row info hdir, s.raise_cfg_decode k row info hdir, s.raise_pal_decode k row info hdir,
      s.raise_apal_decode k row info hdir, s.raise_bitDepthEff_decode k row info hdir⟩,
    fun hdir => ⟨s.raise_pix_encode k row info hdir, s.raise_cfg_encode k row info hdir⟩⟩

/-! ### The way out of Faulted (R253) -/

/-- Settles O38: in Faulted the engine takes no step, NOP and START change nothing, and no other move but RESET touches the run. -/
theorem faultedUntilReset : Obligations.FaultedUntilReset := by
  intro s t hs h
  rcases step_cases_command h with ⟨p, he⟩ | ⟨p, code, hcmd, he⟩ | hu
  · cases (engineStep_not_running (s := { s with pending := p }) (by simp [hs])).symm.trans he
    exact .inl ⟨hs, rfl, rfl, rfl⟩
  · rcases hostCommand_cases_code he with ⟨-, rfl⟩ | ⟨-, hx⟩ | ⟨rfl, rfl⟩
    · exact .inl ⟨hs, rfl, rfl, rfl⟩
    · cases (execStart_ignored (s := { s with pending := p }) (.inr hs)).symm.trans hx
      exact .inl ⟨hs, rfl, rfl, rfl⟩
    · exact .inr ⟨rfl, hcmd⟩
  · rw [show t = _ from hu]
    exact .inl ⟨hs, rfl, rfl, rfl⟩

/-! ### Tags (the model's own fields) -/

/-- The contents that become unspecified take the next tags, so that the tag CUR had does not matter. -/
theorem TagsUsed.scrambleOutput_withCur {s : State} (h : TagsUsed s) (ft : Byte) (cur : RowBuf) :
    TagsUsed (State.scrambleOutput { s with ft := ft, cur := cur }) := by
  obtain ⟨hf, hx, hp, ha, -, hr⟩ := h
  unfold State.scrambleOutput
  split <;> simp only [TagsUsed, Store.unwritten] <;> omega

theorem TagsUsed.scrambleOutput {s : State} (h : TagsUsed s) : TagsUsed s.scrambleOutput := h.scrambleOutput_withCur s.ft s.cur

theorem TagsUsed.raise {s : State} (h : TagsUsed s) (k : ErrKind) (row info : BitVec 32) : TagsUsed (s.raise k row info) :=
  h.scrambleOutput

/-- A write keeps the tag of the space. -/
theorem TagsUsed.writePix {s : State} (h : TagsUsed s) (a : Nat) (bs : List Byte) : TagsUsed (s.writePix a bs) := by
  simpa [TagsUsed] using h

theorem TagsUsed.writeFstream {s : State} (h : TagsUsed s) (a : Nat) (bs : List Byte) : TagsUsed (s.writeFstream a bs) := by
  simpa [TagsUsed] using h

/-- At the end of a row PREV takes the tag of CUR. -/
theorem TagsUsed.nextRow {s : State} (h : TagsUsed s) : TagsUsed s.nextRow := by
  obtain ⟨hf, hx, hp, ha, hc, -⟩ := h
  exact ⟨hf, hx, hp, ha, hc, hc⟩

theorem TagsUsed.finishDecode {s : State} (h : TagsUsed s) : TagsUsed s.finishDecode := by
  simpa [TagsUsed] using h

theorem TagsUsed.finishEncode {s : State} (h : TagsUsed s) : TagsUsed s.finishEncode := by
  simpa [TagsUsed] using h

theorem TagsUsed.endDecodeRow {s : State} (h : TagsUsed s) : TagsUsed (endDecodeRow s) := by
  unfold Machine.endDecodeRow
  split
  · exact h.nextRow.finishDecode
  · exact h

/-- The palette output writes the tables under their tags. -/
theorem TagsUsed.outputPalette {s : State} (h : TagsUsed s) : TagsUsed (outputPalette s) := by
  simpa [TagsUsed, Machine.outputPalette] using h

/-- RESET gives the row buffers and tables the next tags. -/
theorem TagsUsed.resetState {s : State} (h : TagsUsed s) : TagsUsed (resetState s) := by
  have hbefore : TagsUsed (if s.status = .running then s.scrambleOutput else s) := by
    split
    · exact h.scrambleOutput
    · exact h
  obtain ⟨hf, hx, -⟩ := hbefore
  simp only [TagsUsed, Machine.resetState, Store.unwritten]
  omega

/-- A turn of the engine raises a fault, or writes under the tags in use. -/
theorem engineStep_keeps_tags {s t : State} (h : engineStep s = .next t) (hu : TagsUsed s) : TagsUsed t := by
  rcases engineStep_cases h with ⟨-, rfl⟩ | ⟨-, -, h⟩ | ⟨hs, -, h⟩
  · exact hu
  · rcases decodeStep_cases s with ⟨ft, cur, k, v, -, he⟩ | ⟨ft, pred, pixel, -, -, he⟩ <;> cases he.symm.trans h
    · exact hu.scrambleOutput_withCur ft cur
    · exact TagsUsed.endDecodeRow (TagsUsed.writePix (s := unfilter pred { s with ft := ft }) hu _ _)
  · rcases encodeStep_cases s hs with ⟨ft, cur, k, v, -, he⟩ | ⟨ft, row, b, pred, he⟩ <;> cases he.symm.trans h
    · exact hu.scrambleOutput_withCur ft cur
    · exact (TagsUsed.writeFstream (s := { s.setCur row with ft := ft }) hu _ _).nextRow.finishEncode

/-- START raises a fault, or writes the tables under their tags. -/
theorem execStart_keeps_tags {s t : State} (h : execStart s = .next t) (hu : TagsUsed s) : TagsUsed t := by
  rcases execStart_cases h with ⟨-, rfl⟩ | ⟨-, -, k, -, rfl⟩ | ⟨-, -, -, hacc⟩
  · exact hu
  · exact hu.raise k 0 0
  · rcases acceptStart_cases hacc with ⟨-, rfl⟩ | ⟨-, -, epal, -, rfl⟩
    · exact hu
    · have hscan : TagsUsed (scannedState s epal) := hu
      rcases limitPalette_cases (scannedState s epal) (paletteLimit s.cfg (effectiveDepth s.cfg.bitDepth epal.length)) with
        ⟨-, he⟩ | ⟨-, -, he⟩ | ⟨-, -, he⟩ <;> rw [he]
      · exact hscan.outputPalette
      · exact TagsUsed.outputPalette hu
      · exact hscan.raise .badPalette 0 0

/-- A read of the host may use up the next tag; its writes keep the tags. -/
theorem HostEffect.keeps_tags {s t : State} (h : HostEffect s t) (hu : TagsUsed s) : TagsUsed t := by
  cases h with
  | nothing => exact hu
  | config c _ => exact hu
  | pal k c _ => exact hu
  | apal k a _ => exact hu
  | fstream a b _ => exact hu
  | pix a b _ => exact hu
  | read d n hn =>
    obtain ⟨hf, hx, hp, ha, hc, hr⟩ := hu
    exact ⟨hf.trans_le hn, hx.trans_le hn, hp.trans_le hn, ha.trans_le hn, hc.trans_le hn, hr.trans_le hn⟩
  | start _ h => exact execStart_keeps_tags h hu
  | reset => exact hu.resetState

/-- Settles O53: the tags do not speak of the host's coming moves, and the engine's turn and every effect of the host keep them in
use below the next one. -/
theorem stepKeepsTagsUsed : Obligations.StepKeepsTagsUsed := by
  intro s t hu h
  obtain ⟨p, he | he⟩ := step_cases h
  · exact engineStep_keeps_tags (s := { s with pending := p }) he hu
  · exact HostEffect.keeps_tags (s := { s with pending := p }) he hu

end Sys2Proof.Machine
end

section
/-! PROOFS. The row-stripe arrangement of 60_exceptions R263 to R270: a row of RGBA8 depends on the rows above it through PREV alone,
and not at all where its filter is None or Sub, so that the workers' rows, merged, are the single engine's. -/

namespace Sys2Proof.Machine

/-! ### Rows of the engine as a function -/

theorem rowsEnd_not_running (n : Nat) {s : State} (h : s.status ≠ .running) : rowsEnd n s = s := by
  rw [rowsEnd, runRows_not_running n h]

/-- One scanline step and `n` more. -/
theorem rowsEnd_succ {s t : State} (hs : s.status = .running) (h : engineStep s = .next t) (n : Nat) :
    rowsEnd (n + 1) s = rowsEnd n t := by
  have hrun : runRows (n + 1) s = runRows n t := by rw [runRows, if_pos hs, h, andThen_next]
  rw [runRows_eq_rowsEnd, runRows_eq_rowsEnd] at hrun
  exact Host.Outcome.next.inj hrun

theorem rowsEnd_add (m n : Nat) (s : State) : rowsEnd (m + n) s = rowsEnd n (rowsEnd m s) := by
  have hrun := runRows_add m n s
  rw [runRows_eq_rowsEnd, runRows_eq_rowsEnd m, andThen_next, runRows_eq_rowsEnd] at hrun
  exact Host.Outcome.next.inj hrun

/-! ### Lists of writes -/

/-- Two adjacent lists of writes are one. -/
theorem Store.writeList_append {α : Type} (m : Store α) (k : Nat) (vs ws : List α) :
    m.writeList k (vs ++ ws) = (m.writeList k vs).writeList (k + vs.length) ws := by
  induction vs generalizing m k with
  | nil => rfl
  | cons v vs ih =>
    rw [List.cons_append, Store.writeList, ih, Store.writeList, List.length_cons, Nat.add_assoc, Nat.add_comm 1]

/-- Reading back the range of a list of writes gives the list. -/
theorem map_byte_writeList (m : Memory) (k : Nat) (bs : List Byte) :
    (List.range bs.length).map (fun i => Memory.byte (m.writeList k bs) (k + i)) = bs := by
  refine List.ext_getElem (by simp) fun i _ hi => ?_
  rw [List.getElem_map, List.getElem_range, Memory.byte_writeList_inside m k bs hi, List.getD_eq_getElem bs 0 hi]

/-! ### A row of the mode that has stripes (R265, R266) -/

theorem isRgba8_of_stripesApply {c : Cfg} (h : stripesApply c = true) : c.IsRgba8 := by
  obtain ⟨-, hct, hbd⟩ := of_decide_eq_true h
  exact ⟨hbd, hct⟩

theorem direction_of_stripesApply {c : Cfg} (h : stripesApply c = true) : c.direction = .decode :=
  (of_decide_eq_true h).1

/-- The filters None and Sub do not look at the row above (R266). -/
theorem exists_namesFilter_noAbove {ft : Byte} (h : ft.toNat ≤ 1) :
    ∃ pred, NamesFilter ft pred ∧ ∀ a b b' c c', pred a b c = pred a b' c' := by
  interval_cases hft : ft.toNat <;> cases byte_eq_ofNat hft
  · exact ⟨predNone, ⟨⟨_, rfl, fun _ => rfl⟩, _, rfl, fun _ => rfl⟩, fun _ _ _ _ _ => rfl⟩
  · exact ⟨predSub, ⟨⟨_, rfl, fun _ => rfl⟩, _, rfl, fun _ => rfl⟩, fun _ _ _ _ _ => rfl⟩

theorem lt_of_mayBeginStripe {s : State} {n : Nat} (h : mayBeginStripe s n = true) : n * s.cfg.slen < s.cfg.fstreamLen :=
  of_decide_eq_true ((Bool.and_eq_true ..).mp h).1

theorem filterByte_of_mayBeginStripe {s : State} {n : Nat} (h : mayBeginStripe s n = true) :
    (s.readFstream (n * s.cfg.slen)).toNat ≤ 1 :=
  of_decide_eq_true ((Bool.and_eq_true ..).mp h).2

/-- Recovery by a predictor that does not look at the row above. -/
theorem recoverRow_noAbove {pred : Predictor} (hp : ∀ a b b' c c', pred a b c = pred a b' c') (fu : Nat)
    (f up up' : Nat → Byte) (n : Nat) : recoverRow pred fu f up n = recoverRow pred fu f up' n := by
  induction n with
  | zero => rfl
  | succ n ih => rw [recoverRow, recoverRow, ih, hp _ (up n) (up' n) _ (before up' fu n)]

/-- What the rows above a row have left in FT, CUR and PREV. -/
structure RowsAbove where
  ft : Byte
  raw : List Byte
  prev : RowBuf

/-- The decode run of `s` before row `n`. -/
def beforeRow (s : State) (n : Nat) (above : RowsAbove) (pix : Memory) : State :=
  { s with
    status := if n = s.cfg.height.toNat then .done else .running
    y := BitVec.ofNat 32 n
    ip := n * s.cfg.slen
    ft := above.ft
    cur := { s.cur with bytes := above.raw }
    prev := above.prev
    pix := pix }

theorem beforeRow_running {s : State} {n : Nat} (hn : n < s.cfg.height.toNat) (above : RowsAbove) (pix : Memory) :
    (beforeRow s n above pix).status = .running := if_neg hn.ne

theorem beforeRow_not_faulted (s : State) (n : Nat) (above : RowsAbove) (pix : Memory) :
    (beforeRow s n above pix).status ≠ .faulted := by
  unfold beforeRow
  dsimp only
  split <;> simp

/-- Row `n` recovered from its scanline under the rows above. -/
def recoveredRow (s : State) (n : Nat) (pred : Predictor) (above : RowsAbove) : List Byte :=
  recoverRow pred s.cfg.fu (fun i => s.readFstream (n * s.cfg.slen + 1 + i)) above.prev.byte s.cfg.rowb

/-- What row `n` leaves to the row below it. -/
def leavesRow (s : State) (n : Nat) (row : List Byte) : RowsAbove :=
  ⟨s.readFstream (n * s.cfg.slen), row, { s.cur with bytes := row }⟩

/-- The bytes of PIX that UNPACK.RGBA8 makes of a recovered row. -/
def rgbaBytes (s : State) (row : List Byte) : List Byte := rowBytes s (rgbaPixel (s.setCur row))

theorem State.finishDecode_eq (s : State) :
    s.finishDecode = { s with status := if s.y = s.cfg.height then .done else s.status } := by
  unfold State.finishDecode
  split <;> rfl

/-- The end of row `n` moves the run before row `n + 1`. -/
theorem nextRow_finishDecode_beforeRow {s : State} {n : Nat} (hn : n < s.cfg.height.toNat) (above : RowsAbove) (pix : Memory) :
    (beforeRow s n above pix).nextRow.finishDecode =
      beforeRow s (n + 1) { above with prev := { s.cur with bytes := above.raw } } pix := by
  have hy : BitVec.ofNat 32 n + 1 = BitVec.ofNat 32 (n + 1) := by rw [BitVec.ofNat_add]; rfl
  have hlast : BitVec.ofNat 32 (n + 1) = s.cfg.height ↔ n + 1 = s.cfg.height.toNat := by
    rw [← BitVec.toNat_inj, BitVec.toNat_ofNat, Nat.mod_eq_of_lt (by omega)]
  have hip : n * s.cfg.slen + s.cfg.slen = (n + 1) * s.cfg.slen := (Nat.succ_mul ..).symm
  rw [State.finishDecode_eq]
  simp only [State.nextRow, beforeRow, if_neg hn.ne, hy, hlast, hip]

/-- UNFILT and UNPACK.RGBA8 put row `n` into CUR and PIX. -/
theorem unpackRow_unfilter_beforeRow {s : State} {n : Nat} (hn : n < s.cfg.height.toNat) (pred : Predictor) (above : RowsAbove)
    (pix : Memory) (ft : Byte) :
    let v := unfilter pred { beforeRow s n above pix with ft := ft }
    let row := recoveredRow s n pred above
    unpackRow v (rgbaPixel v) = beforeRow s n ⟨ft, row, above.prev⟩ (pix.writeList (pixelBase s.cfg 0 n) (rgbaBytes s row)) := by
  intro v row
  have hy : (BitVec.ofNat 32 n).toNat = n := by rw [BitVec.toNat_ofNat, Nat.mod_eq_of_lt (by omega)]
  show beforeRow s n ⟨ft, row, above.prev⟩
    (pix.writeList (pixelBase s.cfg 0 (BitVec.ofNat 32 n).toNat) (rgbaBytes s row)) = _
  rw [hy]

/-- DECODE_STEP over a whole scanline of row `n`. -/
theorem engineStep_beforeRow {s : State} (hmode : stripesApply s.cfg = true) {n : Nat} (hn : n < s.cfg.height.toNat)
    (hwhole : n * s.cfg.slen + s.cfg.slen ≤ s.cfg.fstreamLen) {pred : Predictor}
    (hname : NamesFilter (s.readFstream (n * s.cfg.slen)) pred) (above : RowsAbove) (pix : Memory) :
    engineStep (beforeRow s n above pix) =
      .next (beforeRow s (n + 1) (leavesRow s n (recoveredRow s n pred above))
        (pix.writeList (pixelBase s.cfg 0 n) (rgbaBytes s (recoveredRow s n pred above)))) := by
  have hs := beforeRow_running hn above pix
  rw [engineStep_decode hs (direction_of_stripesApply hmode),
    decodeStep_rgba8 (s := beforeRow s n above pix) (isRgba8_of_stripesApply hmode) hs hwhole hname,
    unpackRow_unfilter_beforeRow hn, nextRow_finishDecode_beforeRow hn]
  rfl

/-- A fault raised before row `n`. -/
def faultBeforeRow (s : State) (n : Nat) (ft : Byte) (k : ErrKind) (info : BitVec 32) : State :=
  (beforeRow s n ⟨ft, [], s.prev⟩ s.pix).raise k (BitVec.ofNat 32 n) info

/-- It leaves nothing of CUR and PIX in the decode direction (R252), and PREV as it was. -/
theorem raise_beforeRow {s : State} (hdir : s.cfg.direction = .decode) (n : Nat) (above : RowsAbove) (pix : Memory) (k : ErrKind)
    (info : BitVec 32) :
    (beforeRow s n above pix).raise k (BitVec.ofNat 32 n) info = { faultBeforeRow s n above.ft k info with prev := above.prev } := by
  have hdir' (above pix) : (beforeRow s n above pix).cfg.direction = .decode := hdir
  simp only [faultBeforeRow, State.raise, State.scrambleOutput, hdir']
  rfl

/-- Where row `n` has no whole scanline of a filter type, FETCH faults whatever the rows above have left in CUR, PREV and PIX; FT counts
only where the filter-type byte itself is missing (44_control R227). -/
theorem engineStep_beforeRow_cases {s : State} (hmode : stripesApply s.cfg = true) {n : Nat} (hn : n < s.cfg.height.toNat) :
    (∃ w : Byte → State, (∀ ft, (w ft).status = .faulted ∧ (w ft).errRow = BitVec.ofNat 32 n) ∧
      (n * s.cfg.slen < s.cfg.fstreamLen → ∀ ft ft', w ft = w ft') ∧
      ∀ above pix, engineStep (beforeRow s n above pix) = .next { w above.ft with prev := above.prev }) ∨
    (n * s.cfg.slen + s.cfg.slen ≤ s.cfg.fstreamLen ∧ ∃ pred, NamesFilter (s.readFstream (n * s.cfg.slen)) pred) := by
  have hdir := direction_of_stripesApply hmode
  have faults {above pix ft k info} (h : fetch (beforeRow s n above pix) =
      .error ((beforeRow s n { above with ft := ft } pix).raise k (BitVec.ofNat 32 n) info)) :
      engineStep (beforeRow s n above pix) = .next { faultBeforeRow s n ft k info with prev := above.prev } :=
    (engineStep_of_fetch_error (beforeRow_running hn above pix) hdir h).trans (congrArg _ (raise_beforeRow hdir ..))
  rcases Nat.lt_or_ge (n * s.cfg.slen) s.cfg.fstreamLen with hlt | hended
  · generalize hbyte : s.readFstream (n * s.cfg.slen) = b
    rcases Nat.lt_or_ge 4 b.toNat with hbad | hft
    · exact .inl ⟨fun _ => faultBeforeRow s n b .badFilter (b.setWidth 32), fun _ => ⟨rfl, rfl⟩, fun _ _ _ => rfl,
        fun above pix => faults (hbyte ▸ fetch_of_badFilter hlt (decodeUnfilt_reserved (hbyte ▸ hbad)))⟩
    · obtain ⟨i, hi⟩ := decodeUnfilt_ok_of_le hft
      rcases Nat.lt_or_ge s.cfg.fstreamLen (n * s.cfg.slen + s.cfg.slen) with hcut | hwhole
      · exact .inl ⟨fun _ => faultBeforeRow s n b .truncated 1, fun _ => ⟨rfl, rfl⟩, fun _ _ _ => rfl,
          fun above pix => faults (hbyte ▸ fetch_of_cut hlt (hbyte ▸ hi) hcut)⟩
      · exact .inr ⟨hwhole, exists_namesFilter hft⟩
  · exact .inl ⟨fun ft => faultBeforeRow s n ft .truncated 0, fun _ => ⟨rfl, rfl⟩, fun hlt => absurd hlt hended.not_gt,
      fun above pix => faults (fetch_of_ended hended)⟩

/-! ### The rows of a stripe (R267) -/

/-- The end of `r` rows from row `n`. -/
def rowsFrom (s : State) (n r : Nat) (above : RowsAbove) (pix : Memory) : State := rowsEnd r (beforeRow s n above pix)

/-- Two runs of the `r` rows from row `n`, each under any PIX: both fault in one of the rows, in states that differ in PREV alone, or
both write the same bytes and come out the same. -/
def RowsAgree (s : State) (n r : Nat) (f g : Memory → State) : Prop :=
  (∃ (w : State) (p : RowBuf), w.status = .faulted ∧ n ≤ w.errRow.toNat ∧ w.errRow.toNat < n + r ∧
    ∀ pix, f pix = { w with prev := p } ∧ g pix = w) ∨
  (∃ above, ∃ out : List Byte, out.length = r * s.cfg.width.toNat * 4 ∧ ∀ pix,
    f pix = beforeRow s (n + r) above (pix.writeList (pixelBase s.cfg 0 n) out) ∧
    g pix = beforeRow s (n + r) above (pix.writeList (pixelBase s.cfg 0 n) out))

/-- Two runs that write the same row `n` and agree from there. -/
theorem RowsAgree.cons {s : State} {n r : Nat} {row : List Byte} {f g f' g' : Memory → State}
    (hrow : row.length = s.cfg.width.toNat * 4) (h : RowsAgree s (n + 1) r f' g')
    (hf : ∀ pix, f pix = f' (pix.writeList (pixelBase s.cfg 0 n) row))
    (hg : ∀ pix, g pix = g' (pix.writeList (pixelBase s.cfg 0 n) row)) : RowsAgree s n (r + 1) f g := by
  rcases h with ⟨w, p, hw, hlo, hhi, h⟩ | ⟨above, out, hout, h⟩
  · exact .inl ⟨w, p, hw, by omega, by omega, fun pix => ⟨(hf pix).trans (h _).1, (hg pix).trans (h _).2⟩⟩
  · refine .inr ⟨above, row ++ out, ?_, fun pix => ?_⟩
    · rw [List.length_append, hrow, hout]
      ring
    · rw [hf, hg, Store.writeList_append, hrow, ← pixelBase_succ_row, ← Nat.add_assoc, Nat.add_right_comm n r 1]
      exact h _

/-- The `r` rows from row `n` are recovered alike in two runs: the rows above have left the same, or row `n` has a filter-type byte, of
None or Sub. -/
def StartsAlike (s : State) (n r : Nat) (above above' : RowsAbove) : Prop :=
  above = above' ∨ (0 < r ∧ mayBeginStripe s n = true)

/-- Two runs that start alike recover the first row by one predictor to one row. -/
theorem StartsAlike.recoveredRow_eq {s : State} {n r : Nat} {above above' : RowsAbove} (h : StartsAlike s n r above above')
    {pred : Predictor} (hname : NamesFilter (s.readFstream (n * s.cfg.slen)) pred) :
    ∃ pred, NamesFilter (s.readFstream (n * s.cfg.slen)) pred ∧ recoveredRow s n pred above = recoveredRow s n pred above' := by
  rcases h with rfl | ⟨-, hbegin⟩
  · exact ⟨pred, hname, rfl⟩
  · obtain ⟨pred, hname, hp⟩ := exists_namesFilter_noAbove (filterByte_of_mayBeginStripe hbegin)
    exact ⟨pred, hname, recoverRow_noAbove hp ..⟩

/-- Two runs that start alike agree. -/
theorem rowsAgree_of_startsAlike {s : State} (hmode : stripesApply s.cfg = true) {n r : Nat} (hrows : n + r ≤ s.cfg.height.toNat)
    {above above' : RowsAbove} (hstart : StartsAlike s n r above above') :
    RowsAgree s n r (rowsFrom s n r above) (rowsFrom s n r above') := by
  induction r generalizing n above above' with
  | zero =>
    rcases hstart with rfl | ⟨hr, -⟩
    · exact .inr ⟨above, [], by simp, fun pix => ⟨rfl, rfl⟩⟩
    · exact absurd hr (Nat.lt_irrefl 0)
  | succ r ih =>
    have hn : n < s.cfg.height.toNat := by omega
    have step {above pix t} (h : engineStep (beforeRow s n above pix) = .next t) :=
      rowsEnd_succ (beforeRow_running hn above pix) h r
    rcases engineStep_beforeRow_cases hmode hn with ⟨w, hw, hft, hfault⟩ | ⟨hwhole, _, hname⟩
    · have hend (above pix) := (step (hfault above pix)).trans (rowsEnd_not_running r (by simp [(hw above.ft).1]))
      have hsame : w above.ft = w above'.ft := by
        rcases hstart with rfl | ⟨-, hbegin⟩
        · rfl
        · exact hft (lt_of_mayBeginStripe hbegin) ..
      have herr : (w above'.ft).errRow.toNat = n := by rw [(hw above'.ft).2, BitVec.toNat_ofNat, Nat.mod_eq_of_lt (by omega)]
      exact .inl ⟨{ w above'.ft with prev := above'.prev }, above.prev, (hw above'.ft).1, herr.ge, herr.trans_lt (by omega),
        fun pix => ⟨hsame ▸ hend above pix, hend above' pix⟩⟩
    · obtain ⟨pred, hname, hrow⟩ := hstart.recoveredRow_eq hname
      have hfirst (above pix) := step (engineStep_beforeRow hmode hn hwhole hname above pix)
      refine RowsAgree.cons (rowBytes_length s _) (ih (by omega) (.inl rfl)) (hfirst above) fun pix => ?_
      rw [hrow]
      exact hfirst above' pix

/-! ### The workers (R264, R267) -/

/-- A worker starts its stripe under an all-zero PREV, with FT and CUR as they were when the run began. -/
def startAbove (s : State) : RowsAbove := ⟨s.ft, s.cur.bytes, { s.prev with bytes := List.replicate s.cfg.rowb 0 }⟩

/-- A worker runs the rows of its stripe. -/
theorem workerEnd_eq {s : State} (hs : s.status = .running) {p : Stripe} (hp : p.first < s.cfg.height.toNat) :
    workerEnd s p = rowsFrom s p.first p.rows (startAbove s) s.pix := by
  rw [workerEnd, workerStart, rowsFrom, beforeRow, if_neg hp.ne, ← hs]
  rfl

theorem stripesCover_cons {s : State} {n : Nat} {p : Stripe} {ps : List Stripe} (h : stripesCover s n (p :: ps) = true) :
    p.first = n ∧ 0 < p.rows ∧ (n = 0 ∨ mayBeginStripe s n = true) ∧ stripesCover s (n + p.rows) ps = true := by
  simpa [stripesCover, and_assoc] using h

theorem stripesCover_le_height {s : State} {n : Nat} {ps : List Stripe} (h : stripesCover s n ps = true) :
    n ≤ s.cfg.height.toNat := by
  induction ps generalizing n with
  | nil => exact (of_decide_eq_true h).le
  | cons p ps ih =>
    obtain ⟨-, -, -, hcover⟩ := stripesCover_cons h
    exact (Nat.le_add_right ..).trans (ih hcover)

/-- Each stripe of a cover from row `n` has rows, at or below row `n` and within the image. -/
theorem stripesCover_mem {s : State} {n : Nat} {ps : List Stripe} (h : stripesCover s n ps = true) {q : Stripe} (hq : q ∈ ps) :
    n ≤ q.first ∧ 0 < q.rows ∧ q.first + q.rows ≤ s.cfg.height.toNat := by
  induction ps generalizing n with
  | nil => cases hq
  | cons p ps ih =>
    obtain ⟨rfl, hrows, -, hcover⟩ := stripesCover_cons h
    rcases List.mem_cons.mp hq with rfl | hq
    · exact ⟨le_rfl, hrows, stripesCover_le_height hcover⟩
    · obtain ⟨hlo, hq⟩ := ih hcover hq
      exact ⟨(Nat.le_add_right ..).trans hlo, hq⟩

/-- A faulted worker reports a row of its stripe. -/
theorem first_le_errRow {s : State} (hmode : stripesApply s.cfg = true) (hs : s.status = .running) {q : Stripe}
    (hrows : 0 < q.rows) (hheight : q.first + q.rows ≤ s.cfg.height.toNat) (h : (workerEnd s q).status = .faulted) :
    q.first ≤ (workerEnd s q).errRow.toNat := by
  rw [workerEnd_eq hs (by omega)] at h ⊢
  rcases rowsAgree_of_startsAlike hmode hheight (.inl rfl) with ⟨w, _, -, hlo, -, hw⟩ | ⟨_, _, -, hw⟩
  · rw [(hw s.pix).2]
    exact hlo
  · rw [(hw s.pix).2] at h
    exact absurd h (beforeRow_not_faulted _ _ _ _)

/-! ### The lowest fault (R269) -/

theorem lowestFault_cons_not_faulted {t : State} (h : t.status ≠ .faulted) (best : Option State) (ts : List State) :
    lowestFault best (t :: ts) = lowestFault best ts := if_neg h

/-- A fault at or above all later ones is the lowest. -/
theorem lowestFault_some {b : State} {ts : List State} (h : ∀ t ∈ ts, t.status = .faulted → b.errRow.toNat ≤ t.errRow.toNat) :
    lowestFault (some b) ts = some b := by
  induction ts with
  | nil => rfl
  | cons t ts ih =>
    have hrest := ih fun t' ht' => h t' (List.mem_cons_of_mem t ht')
    by_cases ht : t.status = .faulted
    · rw [lowestFault, if_pos ht]
      simp only [if_neg (h t List.mem_cons_self ht).not_gt, hrest]
    · rw [lowestFault_cons_not_faulted ht, hrest]

theorem lowestFault_cons_faulted {b : State} (hb : b.status = .faulted) {ts : List State}
    (h : ∀ t ∈ ts, t.status = .faulted → b.errRow.toNat ≤ t.errRow.toNat) : lowestFault none (b :: ts) = some b := by
  rw [lowestFault, if_pos hb]
  exact lowestFault_some h

/-! ### The merge (R268) -/

/-- The copies of the workers' rows into a PIX, in order. -/
def copyStripes (s : State) (dst : Memory) (ps : List Stripe) : Memory :=
  ps.foldl (fun dst p => copyRows s dst (workerEnd s p).pix p) dst

/-- A worker that has written the bytes of its rows has them copied. -/
theorem copyRows_writeList (s : State) (dst m : Memory) (p : Stripe) {out : List Byte}
    (h : out.length = p.rows * s.cfg.width.toNat * 4) :
    copyRows s dst (m.writeList (pixelBase s.cfg 0 p.first) out) p = dst.writeList (pixelBase s.cfg 0 p.first) out := by
  rw [copyRows, ← h, map_byte_writeList]

/-- `t` is what the workers of `ps` make of a run that stands in `e` with `pix` in PIX: but for PREV the lowest fault, or the last
worker's end with the merged rows in PIX. -/
def IsStripedEnd (s : State) (ps : List Stripe) (pix : Memory) (e t : State) : Prop :=
  (∃ w prev, lowestFault none (ps.map (workerEnd s)) = some w ∧ t = { w with prev := prev }) ∨
  (lowestFault none (ps.map (workerEnd s)) = none ∧
    t = { (ps.getLast?.map (workerEnd s)).getD e with pix := copyStripes s pix ps })

/-- A worker that does not fault hands its end on to the stripes after its own. -/
theorem IsStripedEnd.cons {s : State} {p : Stripe} {ps : List Stripe} {pix m : Memory} {e e' t : State}
    (hw : (workerEnd s p).status ≠ .faulted) (hm : copyRows s pix (workerEnd s p).pix p = m)
    (he' : e' = { workerEnd s p with pix := e'.pix }) (h : IsStripedEnd s ps m e' t) : IsStripedEnd s (p :: ps) pix e t := by
  unfold IsStripedEnd at *
  rw [List.map_cons, lowestFault_cons_not_faulted hw, List.getLast?_cons, copyStripes, List.foldl_cons, hm]
  refine h.imp_right fun ⟨hnone, ht⟩ => ⟨hnone, ht.trans ?_⟩
  cases ps.getLast? with
  | none => rw [he']; rfl
  | some q => rfl

/-- The single engine's run from row `n` is what the workers of the stripes from row `n` make of it. -/
theorem isStripedEnd_rowsEnd {s : State} (hmode : stripesApply s.cfg = true) (hs : s.status = .running) {ps : List Stripe} {n : Nat}
    (hcover : stripesCover s n ps = true) {above : RowsAbove} (hfirst : n = 0 → above = startAbove s) (pix : Memory) :
    IsStripedEnd s ps pix (beforeRow s n above pix) (rowsEnd (s.cfg.height.toNat - n) (beforeRow s n above pix)) := by
  induction ps generalizing n above pix with
  | nil =>
    have hn : n = s.cfg.height.toNat := of_decide_eq_true hcover
    refine .inr ⟨rfl, ?_⟩
    rw [hn, Nat.sub_self]
    rfl
  | cons p ps ih =>
    obtain ⟨rfl, hrows, hbegin, hrest⟩ := stripesCover_cons hcover
    have hheight := stripesCover_le_height hrest
    have hworker := workerEnd_eq hs (p := p) (by omega)
    have hstart : StartsAlike s p.first p.rows above (startAbove s) := hbegin.imp hfirst fun h => ⟨hrows, h⟩
    rw [show s.cfg.height.toNat - p.first = p.rows + (s.cfg.height.toNat - (p.first + p.rows)) by omega, rowsEnd_add]
    rcases rowsAgree_of_startsAlike hmode hheight hstart with ⟨w, prev, hw, -, hhi, h⟩ | ⟨above', out, hout, h⟩
    · obtain ⟨hengine, -⟩ := h pix
      have hend : workerEnd s p = w := hworker.trans (h s.pix).2
      refine .inl ⟨w, prev, ?_, ?_⟩
      · rw [List.map_cons, hend]
        refine lowestFault_cons_faulted hw fun t ht htf => ?_
        obtain ⟨q, hq, rfl⟩ := List.mem_map.mp ht
        obtain ⟨hlo, hqrows, hqheight⟩ := stripesCover_mem hrest hq
        exact hhi.le.trans (hlo.trans (first_le_errRow hmode hs hqrows hqheight htf))
      · rw [rowsFrom] at hengine
        rw [hengine]
        exact rowsEnd_not_running _ (by simp [hw])
    · obtain ⟨hengine, -⟩ := h pix
      have hend := hworker.trans (h s.pix).2
      rw [rowsFrom] at hengine
      rw [hengine]
      refine IsStripedEnd.cons ?_ ?_ ?_ (ih hrest (fun h0 => absurd h0 (by omega)) _)
      · rw [hend]
        exact beforeRow_not_faulted _ _ _ _
      · rw [hend]
        exact copyRows_writeList s pix s.pix p hout
      · rw [hend]
        rfl

/-! ### The whole run (R268, R269) -/

/-- What a host can observe is the same in `t` and `u`: STATE, the error registers, Y, IP, FT and the bytes of both spaces (R268). -/
def SameObserved (t u : State) : Prop :=
  u.status = t.status ∧ u.err = t.err ∧ u.errRow = t.errRow ∧ u.errInfo = t.errInfo ∧ u.y = t.y ∧ u.ip = t.ip ∧ u.ft = t.ft ∧
    ∀ a, u.readPix a = t.readPix a ∧ u.readFstream a = t.readFstream a

theorem sameObserved_refl (t : State) : SameObserved t t := ⟨rfl, rfl, rfl, rfl, rfl, rfl, rfl, fun _ => ⟨rfl, rfl⟩⟩

/-- A run about to begin stands before row 0. -/
theorem eq_beforeRow_zero {s : State} (hr : RunConsistent s) (hs : s.status = .running) (hy : s.y = 0)
    (hprev : s.prev.bytes = List.replicate s.cfg.rowb 0) : s = beforeRow s 0 (startAbove s) s.pix := by
  obtain ⟨-, hip, hheight, -⟩ := hr hs
  rw [hy] at hip hheight
  have hip : 0 * s.cfg.slen = s.ip := hip.symm
  have hheight : 0 ≠ s.cfg.height.toNat := hheight.ne
  rw [beforeRow, if_neg hheight, startAbove, ← hprev, ← hs, hip, show BitVec.ofNat 32 0 = s.y from hy.symm]

/-- In the mode that has stripes the run under a legal partition is the single engine's to a host. -/
theorem sameObserved_stripedRun {s : State} {ps : List Stripe} (hr : RunConsistent s) (hs : s.status = .running) (hy : s.y = 0)
    (hprev : s.prev.bytes = List.replicate s.cfg.rowb 0) (hlegal : legalPartition s ps = true) :
    SameObserved (rowsEnd s.cfg.height.toNat s) (stripedRun s ps) := by
  obtain ⟨hmode, hcover⟩ := (Bool.and_eq_true ..).mp hlegal
  have hend := isStripedEnd_rowsEnd hmode hs hcover (fun _ => rfl) s.pix
  rw [Nat.sub_zero, ← eq_beforeRow_zero hr hs hy hprev] at hend
  rcases hend with ⟨w, prev, hw, ht⟩ | ⟨hnone, ht⟩
  · rw [ht, stripedRun, hw]
    exact sameObserved_refl w
  · rw [ht, stripedRun, hnone, lastWorker]
    cases ps.getLast? <;> exact sameObserved_refl _

/-- Settles O58: with stripes the workers' rows are the single engine's; without them there is the one engine. -/
theorem stripesMatchSingleEngine : Obligations.StripesMatchSingleEngine := by
  intro s ps hr hs hy hprev hlegal
  refine ⟨_, runRows_eq_rowsEnd _ s, ?_⟩
  by_cases hmode : stripesApply s.cfg = true
  · rw [stripeRun, if_pos hmode]
    exact sameObserved_stripedRun hr hs hy hprev (hlegal hmode)
  · rw [stripeRun, if_neg hmode]
    exact sameObserved_refl _

end Sys2Proof.Machine
end

section
/-! PROOFS. The ends of a run's life: an accepted START forgets the last run (70_reset_and_hazards R283), and the state after reset
meets what every step keeps (70_reset_and_hazards R280). -/

namespace Sys2Proof.Machine

/-! ### START forgets the last run (R283) -/

theorem cfg_eq_of_initRun_eq {s t : State} (h : initRun s = initRun t) : s.cfg = t.cfg := by
  rw [← State.initRun_cfg s, h, State.initRun_cfg]

/-- The prelude reads the initialised state alone: the configuration that decides whether it runs is a part of that state (44_control
R225). -/
theorem acceptStart_eq_of_initRun_eq {s t : State} (h : initRun s = initRun t) : acceptStart s = acceptStart t := by
  rw [acceptStart, acceptStart, h, cfg_eq_of_initRun_eq h]

/-- An accepted START answers the same in two states that it initialises alike. -/
theorem execStart_eq_of_initRun_eq {s t : State} (hs : MayStart s) (ht : MayStart t) (hcheck : startCheck s.cfg = none)
    (h : initRun s = initRun t) : execStart s = execStart t := by
  rw [execStart_of_check_passes hs hcheck, execStart_of_check_passes ht (cfg_eq_of_initRun_eq h ▸ hcheck)]
  exact acceptStart_eq_of_initRun_eq h

/-- Settles O34: the initialisation writes each of these fields, PREV under the tag it has, and the checks read none of them. -/
theorem startForgetsLastRun : Obligations.StartForgetsLastRun := by
  intro s y row info ip ft bde err old epal rmap hmay hcheck
  exact execStart_eq_of_initRun_eq hmay hmay hcheck rfl

/-! ### The state after reset (R280) -/

theorem reset_not_running : State.reset.status ≠ .running := by decide

/-- After reset both spaces and both table files list nothing. -/
theorem memoryCanonical_reset : MemoryCanonical State.reset :=
  ⟨Store.wf_unwritten 0, Store.wf_unwritten 1, Store.wf_unwritten 2, Store.wf_unwritten 3⟩

/-- The power-on tags are 0 to 5, and the counter starts at 6 (the model's own fields, log 2). -/
theorem tagsUsed_reset : TagsUsed State.reset := by
  unfold TagsUsed
  decide

/-- Settles O54: no run is in progress after reset, so what is said of a run holds of it; no fault is recorded, the memory lists
nothing, and the tags are those of power-on. -/
theorem resetMeetsInvariants : Obligations.ResetMeetsInvariants :=
  ⟨memoryCanonical_reset, runConsistent_of_not_running reset_not_running, faultRecorded_of_not_faulted (by decide) rfl,
    paletteCovers_of_not_running reset_not_running, tagsUsed_reset⟩

end Sys2Proof.Machine
end
